-- ==== Sys2Proof/Word.lean ====
section
/-! DEFINITION. The word and byte types (R11, R80) and the small closed enumerations the spec names (R21, R26,
R27, R30, R36, R38, R84, R85, R86). Their numeric codes stand in Decode.lean. -/

namespace Sys2Proof

/-- `u8` of R11. -/
abbrev Byte := BitVec 8

/-- `u32` of R11: one word of a command record (R80), a buffer address (R62), a length, a callback id. -/
abbrev Word := BitVec 32

/-- Transfer type of a pipe (R21; codes R81). -/
inductive TType where
  | control
  | bulk
  | interrupt
  | isochronous
  deriving DecidableEq, Repr, Inhabited

/-- USB direction of an endpoint (R21; codes R81). -/
inductive UsbDir where
  | out
  | inn
  deriving DecidableEq, Repr, Inhabited

/-- Transfer direction seen from the block: `Rx` reads a FIFO, `Tx` writes one (R16, R26). -/
inductive Dir where
  | rx
  | tx
  deriving DecidableEq, Repr, Inhabited

/-- "the direction that is not d" (R130). -/
def Dir.other : Dir → Dir
  | .rx => .tx
  | .tx => .rx

/-- The three FIFO ports (R30): `PORT_C` (CPU only), `PORT_D0`, `PORT_D1`. -/
inductive FPort where
  | c
  | d0
  | d1
  deriving DecidableEq, Repr, Inhabited

/-- The two DMA-capable FIFO ports (R30, R34). -/
inductive DPort where
  | d0
  | d1
  deriving DecidableEq, Repr, Inhabited

/-- A DMA-capable port as a FIFO port. -/
def DPort.fport : DPort → FPort
  | .d0 => .d0
  | .d1 => .d1

/-- The DMA-capable port a FIFO port is, if it is one (`PORT_C` is CPU only, R30). -/
def FPort.dma? : FPort → Option DPort
  | .c => none
  | .d0 => some .d0
  | .d1 => some .d1

/-- Pipe PID state (R21). Code 3 is reserved (R86) and has no value here. -/
inductive Pid where
  | nak
  | buf
  | stall
  deriving DecidableEq, Repr, Inhabited

/-- Stable transfer state of a slot (R27, R28). -/
inductive SlotState where
  | idle
  | armed
  | dmaArmed
  deriving DecidableEq, Repr, Inhabited

/-- Access path of a request (R27): `Cpu`, or `Dma p`. -/
inductive Path where
  | cpu
  | dma (p : DPort)
  deriving DecidableEq, Repr, Inhabited

/-- State of the host link state machine of one physical port (R36). -/
inductive LinkState where
  | detached
  | attachDetecting
  | lowSpeedAttached
  | fullSpeedAttached
  | resetting
  | active
  | suspended
  | resuming
  deriving DecidableEq, Repr, Inhabited

/-- Connection status of one physical port (R36). -/
inductive Conn where
  | cDetached
  | cLowSpeed
  | cFullSpeed
  | cHsNegotiating
  | cHighSpeed
  deriving DecidableEq, Repr, Inhabited

/-- State of the peripheral-side request state machine (R38). -/
inductive CtrlState where
  | cIdle
  | cSetupReceived
  | cDataStage
  | cStatusStage
  | cStalled
  deriving DecidableEq, Repr, Inhabited

/-- Speed reported with an Event-API notification (R44). -/
inductive Speed where
  | sNone
  | sLow
  | sFull
  | sHigh
  deriving DecidableEq, Repr, Inhabited

/-- Event-API notifications (R44). -/
inductive Event where
  | evAttach
  | evDetach
  | evSuspend
  | evResume
  | evBusResetComplete
  deriving DecidableEq, Repr, Inhabited

/-- Line state, the draw of `LINK_ATTACH_PROCESS` (R86, R172). -/
inductive LineState where
  | lsNone
  | lsLow
  | lsFull
  | lsInvalid
  deriving DecidableEq, Repr, Inhabited

/-- Reset handshake status, the draw of `LINK_BUS_RESET` (R86, R173). -/
inductive Handshake where
  | hsInProgress
  | hsDoneLow
  | hsDoneFull
  | hsDoneHigh
  deriving DecidableEq, Repr, Inhabited

/-- Result codes passed to completion callbacks (R84, R250). -/
inductive Result where
  | exact
  | shortPacket
  | overrun
  | stall
  | notReadyExceeded
  | stopped
  | portWedged
  deriving DecidableEq, Repr, Inhabited

/-- Return statuses of commands (R85, R252). -/
inductive Status where
  | ok
  | queueOverrun
  | busy
  | invalidArg
  | invalidState
  | portWedgedNow
  | invalidOp
  deriving DecidableEq, Repr, Inhabited

end Sys2Proof
end

