-- ==== Sys2Proof/Config.lean ====
section
/-! DEFINITION. The configuration record `Cfg` (R8, R9) and the free values: what the environment draws (R23, R243,
R244) when no draw has been supplied. A free value is an opaque constant without a body: no proof can see what it is. -/

namespace Sys2Proof

/-- `MODE` (R9). -/
inductive Mode where
  | host
  | peripheral
  deriving DecidableEq, Repr, Inhabited

/-- `STRATEGY` (R9); `cpuOnly` means that block DMA is not enabled. -/
inductive Strategy where
  | cpuOnly
  | dtcAssisted
  | dmaAssisted
  deriving DecidableEq, Repr, Inhabited

/-- `WORD_BYTES` (R9): 2 or 4. -/
inductive WordBytes where
  | two
  | four
  deriving DecidableEq, Repr, Inhabited

/-- `FIFO_ENDIAN` (R9, R64). -/
inductive Endian where
  | little
  | big
  deriving DecidableEq, Repr, Inhabited

/-- Sensitivity of the sources of one status register (R9, R213). -/
inductive Sens where
  | edge
  | level
  deriving DecidableEq, Repr, Inhabited

/-- The configuration, fixed before first use and changed by no operation (R8, R9). Times are in microseconds (the
spec gives no unit of its own but milliseconds; log entry 13). `NUM_FIFO_PORTS` = 3 and `ADDR_BITS` = 32 are in the
types `FPort` and `Word`. -/
structure Cfg where
  /-- `MODE`. -/
  mode : Mode
  /-- `NUM_PIPES`, 2..16. -/
  numPipes : Nat
  /-- `NUM_PHYS_PORTS`, 1..2. -/
  numPhysPorts : Nat
  /-- `STRATEGY`. -/
  strategy : Strategy
  /-- `WORD_BYTES`. -/
  wordBytes : WordBytes
  /-- `FIFO_ENDIAN`. -/
  fifoEndian : Endian
  /-- `NRDY_CEILING` (N), at least 1. -/
  nrdyCeiling : Nat
  /-- `NRDY_RETRY_DELAY`. -/
  nrdyRetryDelay : Nat
  /-- `PORT_CLEAR_MAX_SPIN`, at least 1. -/
  portClearMaxSpin : Nat
  /-- `DMA_BLOCK_SIZE[PORT_D0]`, at least 1. -/
  dmaBlockSizeD0 : Nat
  /-- `DMA_BLOCK_SIZE[PORT_D1]`, at least 1. -/
  dmaBlockSizeD1 : Nat
  /-- `DMA_WIDTHS`, a subset of 1, 2, 4 that contains 1. -/
  dmaWidths : List Nat
  /-- `DEBOUNCE_GAP`, 1 to 30 ms. -/
  debounceGap : Nat
  /-- `DEBOUNCE_MAX_TRIES`, at least 1. -/
  debounceMaxTries : Nat
  /-- `RESET_ASSERT_TIME`, at least 50 ms. -/
  resetAssertTime : Nat
  /-- `RESET_POLL_MAX`, at least 1. -/
  resetPollMax : Nat
  /-- `RESET_POLL_DELAY`. -/
  resetPollDelay : Nat
  /-- `RESET_RECOVERY_TIME`. -/
  resetRecoveryTime : Nat
  /-- `RESUME_SETTLE_TIME`. -/
  resumeSettleTime : Nat
  /-- `PUSH_FIRST_ON_WRITE`. -/
  pushFirstOnWrite : Bool
  /-- `SENS[BRDY]`. -/
  sensBrdy : Sens
  /-- `SENS[BEMP]`. -/
  sensBemp : Sens
  /-- `SENS[NRDY]`. -/
  sensNrdy : Sens
  /-- `SENS[LINK]`. -/
  sensLink : Sens
  /-- `SENS[CTRL]`. -/
  sensCtrl : Sens
  /-- `IRQ_PRIORITY`: opaque, read by no rule (R9). -/
  irqPriority : Nat
  deriving DecidableEq, Repr

/-- The ranges of R9. -/
def Cfg.wf (c : Cfg) : Bool :=
  decide (2 ≤ c.numPipes) && decide (c.numPipes ≤ 16) && decide (1 ≤ c.numPhysPorts) &&
  decide (c.numPhysPorts ≤ 2) && decide (1 ≤ c.nrdyCeiling) && decide (1 ≤ c.portClearMaxSpin) &&
  decide (1 ≤ c.dmaBlockSizeD0) && decide (1 ≤ c.dmaBlockSizeD1) &&
  (c.dmaWidths.contains 1 && c.dmaWidths.all fun w => w == 1 || w == 2 || w == 4) &&
  decide (1000 ≤ c.debounceGap) && decide (c.debounceGap ≤ 30000) && decide (1 ≤ c.debounceMaxTries) &&
  decide (50000 ≤ c.resetAssertTime) && decide (1 ≤ c.resetPollMax)

/-- The configuration of `State.reset`. The values R9 states are R9's. `PORT_CLEAR_MAX_SPIN`, the block sizes and
`STRATEGY` are those of the common setup of 95_test_vectors.md. The other OPEN parameters have no value in the spec:
DESIGN CHOICE (log entry 3), on which no statement rests. -/
def Cfg.default : Cfg where
  mode := .host
  numPipes := 10
  numPhysPorts := 1
  strategy := .dmaAssisted
  wordBytes := .two
  fifoEndian := .little
  nrdyCeiling := 3
  nrdyRetryDelay := 1000
  portClearMaxSpin := 100
  dmaBlockSizeD0 := 64
  dmaBlockSizeD1 := 64
  dmaWidths := [1, 2, 4]
  debounceGap := 1000
  debounceMaxTries := 8
  resetAssertTime := 50000
  resetPollMax := 8
  resetPollDelay := 1000
  resetRecoveryTime := 10000
  resumeSettleTime := 20000
  pushFirstOnWrite := false
  sensBrdy := .edge
  sensBemp := .edge
  sensNrdy := .edge
  sensLink := .edge
  sensCtrl := .edge
  irqPriority := 0

/-- FREE VALUE: the `n`-th `clear_polls` draw (R106, R243) that no supplied draw gives (log entry 4). -/
opaque Config.freeClearPolls : Nat → Nat

/-- FREE VALUE: the `n`-th `line_state` draw (R172, R243) that no supplied draw gives (log entry 4). -/
opaque Config.freeLineState : Nat → LineState

/-- FREE VALUE: the `n`-th `reset_handshake` draw (R173, R243) that no supplied draw gives (log entry 4). -/
opaque Config.freeHandshake : Nat → Handshake

/-- FREE VALUE: the `n`-th `dma_rx_block` draw (R242, R243) that no supplied draw gives (log entry 4). -/
opaque Config.freeRxBlock : Nat → List Byte

/-- FREE VALUE: the toggle bits (bit i of pipe i) after the `n`-th `Hw` step (R23, R244) that no supplied draw gives
(log entry 5). -/
opaque Config.freeToggles : Nat → BitVec 16

end Sys2Proof
end

