-- ==== Sys2Proof/Syntax.lean ====
section
/-! DEFINITION. The operations (R82, R83) as one inductive, one constructor per row of the opcode table, and what
carries an operation to the block: a command record of five words (R80) with the byte list that travels beside it, or a
source id (R80, R83). -/

namespace Sys2Proof

/-- One constructor per row of the opcode table. `idx` is the record's 8-bit field `w0[15:8]` (R81): a pipe number or a
physical port number, in range or not. A handler's pipe number is `sid[4:0]`, its port number `sid[4:2]` (R83). -/
inductive Instr where
  -- CMD, caller-context commands
  | configurePipe (idx : BitVec 8) (ttype : TType) (dir : UsbDir) (mps : BitVec 11) (dev : Option (BitVec 7))
  | releasePipe (idx : BitVec 8)
  | acquirePort (idx : BitVec 8) (fport : FPort)
  | read (idx : BitVec 8) (buf len cb : Word)
  | write (idx : BitVec 8) (buf len cb : Word)
  | stop (idx : BitVec 8)
  | dmaStart (idx : BitVec 8) (buf len : Word) (fport : FPort) (cb : Word)
  | linkAttachProcess (idx : BitVec 8)
  | linkBusReset (idx : BitVec 8)
  | linkSuspend (idx : BitVec 8)
  | linkResume (idx : BitVec 8)
  | linkSetAddress (idx : BitVec 8) (dev : BitVec 7)
  | ctrlAck
  | ctrlStall
  | ctrlData (buf len cb : Word)
  -- IRQ, interrupt entries
  | usbIrq
  | dmaIrq (fport : FPort)
  -- ENV, environment steps
  | hwRxPacket (idx : BitVec 8) (data : List Byte)
  | hwTxReady (idx : BitVec 8)
  | hwNotReady (idx : BitVec 8)
  | hwStall (idx : BitVec 8)
  | hwBufEmpty (idx : BitVec 8)
  | hwAttach (idx : BitVec 8)
  | hwDetach (idx : BitVec 8)
  | hwLinechg (idx : BitVec 8)
  | hwSetup (data : List Byte)
  | hwStatusDone
  | hwSeqErr
  | dmaBlock (fport : FPort)
  -- EVT, handlers the dispatcher calls
  | hBrdy (p : BitVec 5)
  | hBemp (p : BitVec 5)
  | hNrdy (p : BitVec 5)
  | hAttach (k : BitVec 3)
  | hDetach (k : BitVec 3)
  | hLinechg (k : BitVec 3)
  | hSetup
  | hStsdone
  | hSeqerr
  deriving DecidableEq, Repr

/-- A command record (R80): five 32-bit words, and the byte list that "travels beside the record as the operand `data`"
(R81), empty for an operation that carries none. -/
structure Record where
  w0 : Word
  w1 : Word
  w2 : Word
  w3 : Word
  w4 : Word
  data : List Byte
  deriving DecidableEq, Repr

/-- What the block is given for one transition: a command record, or the 8-bit source id of one handler (R80, R83). -/
inductive Input where
  | record (r : Record)
  | source (sid : BitVec 8)
  deriving DecidableEq, Repr

/-- The four formats of R80. -/
inductive Format where
  | cmd
  | irq
  | env
  | evt
  deriving DecidableEq, Repr

/-- The format of an operation (R80, R82, R83). -/
def Instr.format : Instr → Format
  | .configurePipe _ _ _ _ _ => .cmd
  | .releasePipe _ => .cmd
  | .acquirePort _ _ => .cmd
  | .read _ _ _ _ => .cmd
  | .write _ _ _ _ => .cmd
  | .stop _ => .cmd
  | .dmaStart _ _ _ _ _ => .cmd
  | .linkAttachProcess _ => .cmd
  | .linkBusReset _ => .cmd
  | .linkSuspend _ => .cmd
  | .linkResume _ => .cmd
  | .linkSetAddress _ _ => .cmd
  | .ctrlAck => .cmd
  | .ctrlStall => .cmd
  | .ctrlData _ _ _ => .cmd
  | .usbIrq => .irq
  | .dmaIrq _ => .irq
  | .hwRxPacket _ _ => .env
  | .hwTxReady _ => .env
  | .hwNotReady _ => .env
  | .hwStall _ => .env
  | .hwBufEmpty _ => .env
  | .hwAttach _ => .env
  | .hwDetach _ => .env
  | .hwLinechg _ => .env
  | .hwSetup _ => .env
  | .hwStatusDone => .env
  | .hwSeqErr => .env
  | .dmaBlock _ => .env
  | .hBrdy _ => .evt
  | .hBemp _ => .evt
  | .hNrdy _ => .evt
  | .hAttach _ => .evt
  | .hDetach _ => .evt
  | .hLinechg _ => .evt
  | .hSetup => .evt
  | .hStsdone => .evt
  | .hSeqerr => .evt

end Sys2Proof
end

