-- ==== Sys2Proof/WellFormed.lean ====
section
/-! DEFINITION. Which operations have none of the defects R87 names, under a configuration. What the types already rule
out (a reserved `fport`, a non-zero unused field) is checked by the decoder. -/

namespace Sys2Proof

/-- `idx < NUM_PIPES` (R20, R87). -/
def Cfg.validPipe (c : Cfg) (n : Nat) : Bool := decide (n < c.numPipes) && decide (n < 16)

/-- `idx < NUM_PHYS_PORTS` (R87). -/
def Cfg.validPort (c : Cfg) (n : Nat) : Bool := decide (n < c.numPhysPorts) && decide (n < 2)

/-- None of the defects of R87 and R83: pipe and port numbers in range, `mps` in 1..1024 where it is used, a byte list
whose length the record can hold, eight bytes of setup packet (R239), a DMA-capable port for `DMA_IRQ` and `DMA_BLOCK`
(R155, R242). `DMA_START` with `PORT_C` is not a decoding defect but an argument R151 rejects. -/
def Instr.wellFormed (c : Cfg) : Instr → Bool
  | .configurePipe p _ _ m _ => c.validPipe p.toNat && decide (1 ≤ m.toNat) && decide (m.toNat ≤ 1024)
  | .releasePipe p => c.validPipe p.toNat
  | .acquirePort p _ => c.validPipe p.toNat
  | .read p _ _ _ => c.validPipe p.toNat
  | .write p _ _ _ => c.validPipe p.toNat
  | .stop p => c.validPipe p.toNat
  | .dmaStart p _ _ _ _ => c.validPipe p.toNat
  | .linkAttachProcess k => c.validPort k.toNat
  | .linkBusReset k => c.validPort k.toNat
  | .linkSuspend k => c.validPort k.toNat
  | .linkResume k => c.validPort k.toNat
  | .linkSetAddress k _ => c.validPort k.toNat
  | .ctrlAck => true
  | .ctrlStall => true
  | .ctrlData _ _ _ => true
  | .usbIrq => true
  | .dmaIrq f => f.dma?.isSome
  | .hwRxPacket p bs => c.validPipe p.toNat && decide (bs.length < 2 ^ 32)
  | .hwTxReady p => c.validPipe p.toNat
  | .hwNotReady p => c.validPipe p.toNat
  | .hwStall p => c.validPipe p.toNat
  | .hwBufEmpty p => c.validPipe p.toNat
  | .hwAttach k => c.validPort k.toNat
  | .hwDetach k => c.validPort k.toNat
  | .hwLinechg k => c.validPort k.toNat
  | .hwSetup bs => decide (bs.length = 8)
  | .hwStatusDone => true
  | .hwSeqErr => true
  | .dmaBlock f => f.dma?.isSome
  | .hBrdy p => c.validPipe p.toNat
  | .hBemp p => c.validPipe p.toNat
  | .hNrdy p => c.validPipe p.toNat
  | .hAttach k => c.validPort k.toNat
  | .hDetach k => c.validPort k.toNat
  | .hLinechg k => c.validPort k.toNat
  | .hSetup => true
  | .hStsdone => true
  | .hSeqerr => true

end Sys2Proof
end

