-- ==== Sys2Proof/Decode.lean ====
section
/-! DEFINITION. The decoder, total on every command record and source id (R80 to R83, R87), then the encoder, written
from the same tables, and the numeric field codes of R81 and R84 to R86. -/

namespace Sys2Proof

/-! ### Field codes -/

/-- `ttype` of R81. -/
def TType.ofCode (v : BitVec 2) : TType :=
  if v = 0 then .control else if v = 1 then .bulk else if v = 2 then .interrupt else .isochronous

/-- `ttype` of R81. -/
def TType.code : TType → BitVec 2
  | .control => 0
  | .bulk => 1
  | .interrupt => 2
  | .isochronous => 3

/-- `dir` of R81. -/
def UsbDir.ofCode (v : BitVec 1) : UsbDir := if v = 0 then .out else .inn

/-- `dir` of R81. -/
def UsbDir.code : UsbDir → BitVec 1
  | .out => 0
  | .inn => 1

/-- `fport` of R81; code 3 is reserved. -/
def FPort.ofCode? (v : BitVec 2) : Option FPort :=
  if v = 0 then some .c else if v = 1 then some .d0 else if v = 2 then some .d1 else none

/-- `fport` of R81. -/
def FPort.code : FPort → BitVec 2
  | .c => 0
  | .d0 => 1
  | .d1 => 2

/-- Result codes (R84). -/
def Result.code : Result → Nat
  | .exact => 0
  | .shortPacket => 1
  | .overrun => 2
  | .stall => 3
  | .notReadyExceeded => 4
  | .stopped => 5
  | .portWedged => 6

/-- Return statuses (R85). -/
def Status.code : Status → Nat
  | .ok => 0
  | .queueOverrun => 1
  | .busy => 2
  | .invalidArg => 3
  | .invalidState => 4
  | .portWedgedNow => 5
  | .invalidOp => 6

/-- `pid` codes (R86). -/
def Pid.code : Pid → Nat
  | .nak => 0
  | .buf => 1
  | .stall => 2

/-- `speed` codes (R86). -/
def Speed.code : Speed → Nat
  | .sNone => 0
  | .sLow => 1
  | .sFull => 2
  | .sHigh => 3

/-- `event` codes (R86). -/
def Event.code : Event → Nat
  | .evAttach => 0
  | .evDetach => 1
  | .evSuspend => 2
  | .evResume => 3
  | .evBusResetComplete => 4

/-- Line state codes (R86). -/
def LineState.code : LineState → Nat
  | .lsNone => 0
  | .lsLow => 1
  | .lsFull => 2
  | .lsInvalid => 3

/-- Reset handshake status codes (R86). -/
def Handshake.code : Handshake → Nat
  | .hsInProgress => 0
  | .hsDoneLow => 1
  | .hsDoneFull => 2
  | .hsDoneHigh => 3

/-! ### The fields of a command record (R81) -/

/-- `w0[7:0]`. -/
def Record.op (r : Record) : BitVec 8 := r.w0.extractLsb' 0 8
/-- `w0[15:8]`. -/
def Record.idx (r : Record) : BitVec 8 := r.w0.extractLsb' 8 8
/-- `w0[17:16]`. -/
def Record.fport (r : Record) : BitVec 2 := r.w0.extractLsb' 16 2
/-- `w0[19:18]`. -/
def Record.ttype (r : Record) : BitVec 2 := r.w0.extractLsb' 18 2
/-- `w0[20]`. -/
def Record.dir (r : Record) : BitVec 1 := r.w0.extractLsb' 20 1
/-- `w0[31:21]`, reserved. -/
def Record.rsv0 (r : Record) : BitVec 11 := r.w0.extractLsb' 21 11
/-- `w4[10:0]`. -/
def Record.mps (r : Record) : BitVec 11 := r.w4.extractLsb' 0 11
/-- `w4[17:11]`. -/
def Record.devaddr (r : Record) : BitVec 7 := r.w4.extractLsb' 11 7
/-- `w4[18]`. -/
def Record.dav (r : Record) : BitVec 1 := r.w4.extractLsb' 18 1
/-- `w4[31:19]`, reserved. -/
def Record.rsv4 (r : Record) : BitVec 13 := r.w4.extractLsb' 19 13

/-- Which fields an operation uses (R82's operand column). -/
structure Uses where
  idx : Bool := false
  fport : Bool := false
  ttype : Bool := false
  dir : Bool := false
  buf : Bool := false
  len : Bool := false
  cb : Bool := false
  mps : Bool := false
  devaddr : Bool := false
  dav : Bool := false
  data : Bool := false
  deriving DecidableEq, Repr

/-- "Unused fields of an operation must be 0" (R81), the reserved bits too; an operation that carries data has its
length in `w2` (R81). Bytes beside a record that carries none, or of another number than `w2`, are a defect too (DEDUCED,
log entry 15). -/
def Record.fits (r : Record) (u : Uses) : Bool :=
  r.rsv0 == 0 && r.rsv4 == 0 &&
  (u.idx || r.idx == 0) && (u.fport || r.fport == 0) && (u.ttype || r.ttype == 0) && (u.dir || r.dir == 0) &&
  (u.buf || r.w1 == 0) && (u.len || u.data || r.w2 == 0) && (u.cb || r.w3 == 0) &&
  (u.mps || r.mps == 0) && (u.devaddr || r.devaddr == 0) && (u.dav || r.dav == 0) &&
  (if u.data then r.w2.toNat == r.data.length else r.data.isEmpty)

/-! ### The decoder -/

/-- What a decoder can answer (R87): an operation; a command that returns `InvalidOp` or `InvalidArg`; or, for an
`IRQ` or `ENV` record with a defect and for a reserved source id, no step of any agent. -/
inductive Decoded where
  | instr (i : Instr)
  | invalidOp
  | invalidArg
  | notAStep
  deriving DecidableEq, Repr

/-- A defect of a record whose operation code is in R82: `InvalidArg` for a `CMD` record, "not steps at all" for an
`IRQ` or `ENV` record (R87). -/
def Record.defect (r : Record) : Decoded :=
  if r.w0.extractLsb' 6 2 = 0 then .invalidArg else .notAStep

/-- An operation code that is not in R82: `InvalidOp` (R87), but an `IRQ` or `ENV` record is then no step. Format bits
`11` belong to no format; such a record returns `InvalidOp` too (DEDUCED, log entry 8). The other fields of such a record
are not looked at (DESIGN CHOICE, log entry 20). -/
def Record.unknown (r : Record) : Decoded :=
  if r.w0.extractLsb' 6 2 = 1 ∨ r.w0.extractLsb' 6 2 = 2 then .notAStep else .invalidOp

/-- The operation, if the record's unused and reserved fields are zero. -/
def Record.checked (r : Record) (u : Uses) (i : Instr) : Decoded := if r.fits u then .instr i else r.defect

/-- The same for an operation with a FIFO port operand: `fport = 3` is a defect (R87). -/
def Record.checkedPort (r : Record) (u : Uses) (mk : FPort → Instr) : Decoded :=
  match FPort.ofCode? r.fport with
  | some p => r.checked u (mk p)
  | none => r.defect

/-- The device address operand: `dav = 1` is `Some devaddr`, `dav = 0` is `None` (R81; DEDUCED that the address bits
are then ignored, log entry 9). -/
def Record.dev (r : Record) : Option (BitVec 7) := if r.dav = 1 then some r.devaddr else none

/-- Records (R82). The operation code is looked at first, so a record with an unknown code AND a non-zero reserved bit
answers `InvalidOp`: R87 gives a status to each of the two defects and no order between them (DESIGN CHOICE, log
entry 20). -/
def decodeRecord (r : Record) : Decoded :=
  match r.op.toNat with
  | 0x01 => r.checked { idx := true, ttype := true, dir := true, mps := true, devaddr := true, dav := true }
      (.configurePipe r.idx (.ofCode r.ttype) (.ofCode r.dir) r.mps r.dev)
  | 0x02 => r.checked { idx := true } (.releasePipe r.idx)
  | 0x03 => r.checkedPort { idx := true, fport := true } fun p => .acquirePort r.idx p
  | 0x10 => r.checked { idx := true, buf := true, len := true, cb := true } (.read r.idx r.w1 r.w2 r.w3)
  | 0x11 => r.checked { idx := true, buf := true, len := true, cb := true } (.write r.idx r.w1 r.w2 r.w3)
  | 0x12 => r.checked { idx := true } (.stop r.idx)
  | 0x13 => r.checkedPort { idx := true, fport := true, buf := true, len := true, cb := true } fun p =>
      .dmaStart r.idx r.w1 r.w2 p r.w3
  | 0x20 => r.checked { idx := true } (.linkAttachProcess r.idx)
  | 0x21 => r.checked { idx := true } (.linkBusReset r.idx)
  | 0x22 => r.checked { idx := true } (.linkSuspend r.idx)
  | 0x23 => r.checked { idx := true } (.linkResume r.idx)
  | 0x24 => r.checked { idx := true, devaddr := true } (.linkSetAddress r.idx r.devaddr)
  | 0x30 => r.checked {} .ctrlAck
  | 0x31 => r.checked {} .ctrlStall
  | 0x32 => r.checked { buf := true, len := true, cb := true } (.ctrlData r.w1 r.w2 r.w3)
  | 0x40 => r.checked {} .usbIrq
  | 0x41 => r.checkedPort { fport := true } fun p => .dmaIrq p
  | 0x80 => r.checked { idx := true, data := true } (.hwRxPacket r.idx r.data)
  | 0x81 => r.checked { idx := true } (.hwTxReady r.idx)
  | 0x82 => r.checked { idx := true } (.hwNotReady r.idx)
  | 0x83 => r.checked { idx := true } (.hwStall r.idx)
  | 0x84 => r.checked { idx := true } (.hwBufEmpty r.idx)
  | 0x88 => r.checked { idx := true } (.hwAttach r.idx)
  | 0x89 => r.checked { idx := true } (.hwDetach r.idx)
  | 0x8A => r.checked { idx := true } (.hwLinechg r.idx)
  | 0x90 => r.checked { data := true } (.hwSetup r.data)
  | 0x91 => r.checked {} .hwStatusDone
  | 0x92 => r.checked {} .hwSeqErr
  | 0xA0 => r.checkedPort { fport := true } fun p => .dmaBlock p
  | _ => r.unknown

/-- Source ids (R83): `sid[7:5]` names the status register, `sid[4:0]` the bit; in `LINKSTS` the bit is `4k + e`. -/
def decodeSource (sid : BitVec 8) : Decoded :=
  match (sid.extractLsb' 5 3).toNat with
  | 0 => .instr (.hBrdy (sid.extractLsb' 0 5))
  | 1 => .instr (.hBemp (sid.extractLsb' 0 5))
  | 2 => .instr (.hNrdy (sid.extractLsb' 0 5))
  | 3 =>
    match (sid.extractLsb' 0 2).toNat with
    | 0 => .instr (.hAttach (sid.extractLsb' 2 3))
    | 1 => .instr (.hDetach (sid.extractLsb' 2 3))
    | 2 => .instr (.hLinechg (sid.extractLsb' 2 3))
    | _ => .notAStep
  | 4 =>
    match (sid.extractLsb' 0 5).toNat with
    | 0 => .instr .hSetup
    | 1 => .instr .hStsdone
    | 2 => .instr .hSeqerr
    | _ => .notAStep
  | _ => .notAStep

/-- The decoder: total on every input. -/
def decode : Input → Decoded
  | .record r => decodeRecord r
  | .source sid => decodeSource sid

/-! ### The encoder -/

/-- `w0` from its fields (R81): `op`, `idx`, `fport`, `ttype`, `dir`, and zero in the reserved bits. -/
def packW0 (op idx : BitVec 8) (f t : BitVec 2) (d : BitVec 1) : Word :=
  op.setWidth 32 ||| idx.setWidth 32 <<< 8 ||| f.setWidth 32 <<< 16 ||| t.setWidth 32 <<< 18 ||| d.setWidth 32 <<< 20

/-- `w4` from its fields (R81): `mps`, `devaddr`, `dav`, and zero in the reserved bits. -/
def packW4 (mps : BitVec 11) (dev : BitVec 7) (dav : BitVec 1) : Word :=
  mps.setWidth 32 ||| dev.setWidth 32 <<< 11 ||| dav.setWidth 32 <<< 18

/-- A record that uses only `op`, `idx` and `fport` of `w0`. -/
def headRecord (op idx : BitVec 8) (f : BitVec 2) : Record :=
  ⟨packW0 op idx f 0 0, 0, 0, 0, 0, []⟩

/-- A record with `buf`, `len` and `cb`. -/
def xferRecord (op idx : BitVec 8) (f : BitVec 2) (buf len cb : Word) : Record :=
  ⟨packW0 op idx f 0 0, buf, len, cb, 0, []⟩

/-- A record that carries data (R81). -/
def dataRecord (op idx : BitVec 8) (bs : List Byte) : Record :=
  ⟨packW0 op idx 0 0 0, 0, BitVec.ofNat 32 bs.length, 0, 0, bs⟩

/-- `w4` of `CONFIGURE_PIPE`. -/
def configureW4 (mps : BitVec 11) : Option (BitVec 7) → Word
  | some a => packW4 mps a 1
  | none => packW4 mps 0 0

/-- The record or source id of an operation (R80 to R83). -/
def encode : Instr → Input
  | .configurePipe p t d m a => .record ⟨packW0 0x01 p 0 t.code d.code, 0, 0, 0, configureW4 m a, []⟩
  | .releasePipe p => .record (headRecord 0x02 p 0)
  | .acquirePort p f => .record (headRecord 0x03 p f.code)
  | .read p b l c => .record (xferRecord 0x10 p 0 b l c)
  | .write p b l c => .record (xferRecord 0x11 p 0 b l c)
  | .stop p => .record (headRecord 0x12 p 0)
  | .dmaStart p b l f c => .record (xferRecord 0x13 p f.code b l c)
  | .linkAttachProcess k => .record (headRecord 0x20 k 0)
  | .linkBusReset k => .record (headRecord 0x21 k 0)
  | .linkSuspend k => .record (headRecord 0x22 k 0)
  | .linkResume k => .record (headRecord 0x23 k 0)
  | .linkSetAddress k a => .record ⟨packW0 0x24 k 0 0 0, 0, 0, 0, packW4 0 a 0, []⟩
  | .ctrlAck => .record (headRecord 0x30 0 0)
  | .ctrlStall => .record (headRecord 0x31 0 0)
  | .ctrlData b l c => .record (xferRecord 0x32 0 0 b l c)
  | .usbIrq => .record (headRecord 0x40 0 0)
  | .dmaIrq f => .record (headRecord 0x41 0 f.code)
  | .hwRxPacket p bs => .record (dataRecord 0x80 p bs)
  | .hwTxReady p => .record (headRecord 0x81 p 0)
  | .hwNotReady p => .record (headRecord 0x82 p 0)
  | .hwStall p => .record (headRecord 0x83 p 0)
  | .hwBufEmpty p => .record (headRecord 0x84 p 0)
  | .hwAttach k => .record (headRecord 0x88 k 0)
  | .hwDetach k => .record (headRecord 0x89 k 0)
  | .hwLinechg k => .record (headRecord 0x8A k 0)
  | .hwSetup bs => .record (dataRecord 0x90 0 bs)
  | .hwStatusDone => .record (headRecord 0x91 0 0)
  | .hwSeqErr => .record (headRecord 0x92 0 0)
  | .dmaBlock f => .record (headRecord 0xA0 0 f.code)
  | .hBrdy p => .source (0#3 ++ p)
  | .hBemp p => .source (1#3 ++ p)
  | .hNrdy p => .source (2#3 ++ p)
  | .hAttach k => .source (3#3 ++ k ++ 0#2)
  | .hDetach k => .source (3#3 ++ k ++ 1#2)
  | .hLinechg k => .source (3#3 ++ k ++ 2#2)
  | .hSetup => .source 0x80
  | .hStsdone => .source 0x81
  | .hSeqerr => .source 0x82

/-! ### Words numbered as the opcode table numbers them -/

/-- The input whose bits are `w`: a row of 8 bits is a source id, a wider row a record whose `w0` is bits 31..0, `w1`
bits 63..32 and so on, with no data beside it. -/
def inputOfTableWord (nbits w : Nat) : Input :=
  if nbits ≤ 8 then .source (BitVec.ofNat 8 w)
  else .record ⟨BitVec.ofNat 32 w, BitVec.ofNat 32 (w / 2 ^ 32), BitVec.ofNat 32 (w / 2 ^ 64),
    BitVec.ofNat 32 (w / 2 ^ 96), BitVec.ofNat 32 (w / 2 ^ 128), []⟩

/-- The operation the decoder reads from a table word; none where it refuses. -/
def decodeTableWord (nbits w : Nat) : Option Instr :=
  match decode (inputOfTableWord nbits w) with
  | .instr i => some i
  | .invalidOp => none
  | .invalidArg => none
  | .notAStep => none

end Sys2Proof
end

