-- ==== Sys2Proof/Machine/State.lean ====
section
/-! DEFINITION. The state of the block as plain data (10_state.md), the reasons a step can stop, and the state after
reset (R280). Three fields are the model's own, for what the spec makes a parameter of the step relation or a value
returned to the caller (R49, R252): `ret`, `draws`, `inbox`. -/

namespace Sys2Proof.Machine

/-- A pipe number below 16, the largest `NUM_PIPES` (R9, R20). -/
abbrev PipeId := Fin 16

/-- A physical port number below 2, the largest `NUM_PHYS_PORTS` (R9). -/
abbrev PortId := Fin 2

/-- Buffer memory (R48, R60): the bytes that differ from what an unlisted address reads as, addresses strictly rising. -/
abbrev Memory := List Host.Cell

/-- A transfer request (R27). -/
structure Slot where
  state : SlotState
  buf : Word
  reqLen : Word
  remaining : Word
  cb : Word
  path : Path
  oneShot : Bool
  deriving DecidableEq, Repr

/-- The reset value of a slot, and its value after a request ends (R27, R130). -/
def Slot.empty : Slot := ⟨.idle, 0, 0, 0, 0, .cpu, false⟩

/-- One record of the pipe table (R21). -/
structure Pipe where
  configured : Bool
  ttype : TType
  dir : UsbDir
  mps : Nat
  devaddr : Option (BitVec 7)
  toggle : Bool
  pid : Pid
  trncnt : Word
  ignoreCnt : Nat
  wedged : Bool
  slotRx : Slot
  slotTx : Slot
  curDir : Dir
  rxFifo : Option (List Byte)
  deriving DecidableEq, Repr

/-- One FIFO port (R31). -/
structure Port where
  owner : Option PipeId
  dreq : Bool
  stage : List Byte
  deriving DecidableEq, Repr

/-- One DMA channel binding (R34). -/
structure Chan where
  bound : Bool
  pipe : PipeId
  dirn : Dir
  addr : Word
  width : Nat
  blockSize : Nat
  blockCount : Nat
  crb : Nat
  lastLen : Nat
  armed : Bool
  done : Bool
  size : Word
  deriving DecidableEq, Repr

/-- The link record of one physical port (R36). -/
structure Link where
  state : LinkState
  conn : Conn
  suspended : Bool
  dev : Option (BitVec 7)
  resetSig : Bool
  resumeSig : Bool
  busActive : Bool
  wakeReq : Bool
  deriving DecidableEq, Repr

/-- The control-request record (R38). -/
structure Ctrl where
  state : CtrlState
  setup : Vector Byte 8
  dataCb : Word
  statusEn : Bool
  deriving DecidableEq, Repr

/-- One entry of `tx_log` (R42). -/
structure TxEntry where
  pipe : PipeId
  bytes : List Byte
  bval : Bool
  deriving DecidableEq, Repr

/-- Read or write, in `fifo_log` (R43). -/
inductive Rw where
  | r
  | w
  deriving DecidableEq, Repr

/-- One entry of `fifo_log` (R43): port, direction, width in bytes, value. -/
structure FifoEntry where
  port : FPort
  rw : Rw
  width : Nat
  value : Nat
  deriving DecidableEq, Repr

/-- One entry of `ev_log` (R44). -/
structure EvEntry where
  event : Event
  port : PortId
  speed : Speed
  deriving DecidableEq, Repr

/-- One entry of `time_log`: `Delay(t)` (R14, R45). -/
inductive TimeEntry where
  | delay (t : Nat)
  deriving DecidableEq, Repr

/-- One entry of `cb_log` (R46). -/
structure CbEntry where
  cb : Word
  pipe : PipeId
  result : Result
  bytes : Nat
  deriving DecidableEq, Repr

/-- The environment's draws (R49, R243), MODEL'S OWN as a field: those supplied, oldest first, one list per draw name,
and how many draws have been taken from the free values because the list was empty (log entry 4). -/
structure Draws where
  clearPolls : List Nat
  lineState : List LineState
  handshake : List Handshake
  rxBlock : List (List Byte)
  /-- The toggle bits after a `Hw` step, bit i for pipe i (R244). -/
  toggles : List (BitVec 16)
  /-- The counter that free values are applied to. -/
  count : Nat
  deriving DecidableEq, Repr

/-- The state of one controller instance (R10) together with its configuration (R8), which no step changes. -/
structure State where
  /-- The configuration (R8, R9). -/
  cfg : Cfg
  /-- The pipe table (R20); only records below `NUM_PIPES` exist. -/
  pipes : Vector Pipe 16
  /-- `port[PORT_C]` (R30, R31). -/
  portC : Port
  /-- `port[PORT_D0]`. -/
  portD0 : Port
  /-- `port[PORT_D1]`. -/
  portD1 : Port
  /-- `chan[PORT_D0]` (R34). -/
  chanD0 : Chan
  /-- `chan[PORT_D1]`. -/
  chanD1 : Chan
  /-- The link records (R36); only records below `NUM_PHYS_PORTS` exist. -/
  links : Vector Link 2
  /-- The control-request record (R38). -/
  ctrl : Ctrl
  brdysts : BitVec 16
  brdyenb : BitVec 16
  bempsts : BitVec 16
  bempenb : BitVec 16
  nrdysts : BitVec 16
  nrdyenb : BitVec 16
  linksts : BitVec 8
  linkenb : BitVec 8
  ctrlsts : BitVec 4
  ctrlenb : BitVec 4
  /-- Buffer memory (R48). -/
  mem : Memory
  txLog : List TxEntry
  fifoLog : List FifoEntry
  evLog : List EvEntry
  timeLog : List TimeEntry
  cbLog : List CbEntry
  setupLog : List (Vector Byte 8)
  /-- MODEL'S OWN: the return status of the last command (R252; log entry 6). -/
  ret : Option Status
  /-- MODEL'S OWN: the environment's draws (R49). -/
  draws : Draws
  /-- MODEL'S OWN: what the agents do next, oldest first; any list is a schedule (R7, R49; log entry 1). -/
  inbox : List Input
  deriving DecidableEq, Repr

/-- Reasons a step stops with a fault. -/
inductive Fault where
  /-- Raised by `DMA_IRQ` when a write's DMA-complete arrives with blocks remaining (R155, R256). Safe: the spec raises
  it as a model fault, "a state the rules give no meaning to". -/
  | dmaIncompleteWrite (p : DPort)
  deriving DecidableEq, Repr

/-- Reasons there is no transition. All are safe: the model refuses, the spec has no such step. -/
inductive Refusal where
  /-- An operation without a meaning in this model, by its mnemonic: raised by `exec`'s refused arms only. Safe. -/
  | notModelled (mnemonic : String)
  /-- An `IRQ` or `ENV` record with a defect: "not steps at all (the agent has no such step)" (R87). Raised by `step` and
  by the `IRQ` and `ENV` meanings. Safe. -/
  | notAStep
  /-- An `ENV` step or a handler of the other `MODE`, or a DMA step with `STRATEGY = CpuOnly`: it "does not exist"
  (R88, R150). Raised by the `HW_*`, `H_*`, `DMA_IRQ` and `DMA_BLOCK` meanings. Safe. -/
  | wrongMode
  /-- An interrupt entry that is not asserted or an environment step that is not enabled: "The step exists only while"
  its condition holds (R155, R211, R231 to R235, R240, R242). Raised by the `IRQ` and `ENV` meanings. Safe. -/
  | notEnabled
  /-- A source id that never occurs: a reserved one, or a pipe or port number out of range (R83). Raised by `step` and by
  the `H_*` meanings. Safe. -/
  | reservedSource
  deriving DecidableEq, Repr

/-- Reset value of `pipe[i]`, i > 0 (R21, R280). -/
def Pipe.reset : Pipe where
  configured := false
  ttype := .bulk
  dir := .out
  mps := 64
  devaddr := none
  toggle := false
  pid := .nak
  trncnt := 0
  ignoreCnt := 0
  wedged := false
  slotRx := Slot.empty
  slotTx := Slot.empty
  curDir := .rx
  rxFifo := none

/-- Reset value of `pipe[0]` (R21, R22, R280). -/
def Pipe.resetZero (c : Cfg) : Pipe :=
  { Pipe.reset with
    configured := true
    ttype := .control
    devaddr := match c.mode with
      | .host => some 0
      | .peripheral => none }

/-- Reset value of `port[p]` (R31, R280). -/
def Port.reset : Port := ⟨none, false, []⟩

/-- Reset value of `chan[p]` (R34, R280). -/
def Chan.reset : Chan := ⟨false, 0, .tx, 0, 1, 0, 0, 0, 0, false, false, 0⟩

/-- Reset value of `link[k]` (R36, R280). -/
def Link.reset : Link := ⟨.detached, .cDetached, false, none, false, false, false, false⟩

/-- Reset value of `ctrl` (R38, R280). -/
def Ctrl.reset : Ctrl := ⟨.cIdle, Vector.replicate 8 0, 0, false⟩

/-- No draw supplied, none taken. -/
def Draws.none : Draws := ⟨[], [], [], [], [], 0⟩

/-- Reset value of `LINKENB` (R39, R280): `ATTACH` of every existing port in host mode. -/
def linkenbReset (c : Cfg) : BitVec 8 :=
  match c.mode with
  | .host => if c.numPhysPorts ≤ 1 then 0b00000001 else 0b00010001
  | .peripheral => 0

/-- The state after reset of an instance with configuration `c` (R280). Nothing is listed in memory (log entry 7); no
command has returned; the inbox is empty (log entry 1). -/
def State.resetFor (c : Cfg) : State where
  cfg := c
  pipes := (Vector.replicate 16 Pipe.reset).set 0 (Pipe.resetZero c)
  portC := Port.reset
  portD0 := Port.reset
  portD1 := Port.reset
  chanD0 := Chan.reset
  chanD1 := Chan.reset
  links := Vector.replicate 2 Link.reset
  ctrl := Ctrl.reset
  brdysts := 0
  brdyenb := 0
  bempsts := 0
  bempenb := 0
  nrdysts := 0
  nrdyenb := 0
  linksts := 0
  linkenb := linkenbReset c
  ctrlsts := 0
  ctrlenb := match c.mode with
    | .host => 0
    | .peripheral => 0b0111
  mem := []
  txLog := []
  fifoLog := []
  evLog := []
  timeLog := []
  cbLog := []
  setupLog := []
  ret := none
  draws := Draws.none
  inbox := []

/-- The machine right after reset, with the configuration `Cfg.default` (log entry 3). -/
def State.reset : State := State.resetFor Cfg.default

end Sys2Proof.Machine
end

