-- ==== Sys2Proof/Machine/Operands.lean ====
section
/-! DEFINITION. Reading and writing the records of the tables, and the operand forms: pipe and physical port numbers
(R20, R87), FIFO ports (R30), transfer direction and routing (R26, R29), buffers (R62), setup packet fields (R190). -/

namespace Sys2Proof.Machine

/-! ### Records -/

/-- `pipe[i].slot[d]` (R27). -/
def Pipe.slot (p : Pipe) : Dir → Slot
  | .rx => p.slotRx
  | .tx => p.slotTx

/-- `pipe[i].slot[d] <- x`. -/
def Pipe.setSlot (p : Pipe) (d : Dir) (x : Slot) : Pipe :=
  match d with
  | .rx => { p with slotRx := x }
  | .tx => { p with slotTx := x }

/-- `pipe[i]`. -/
def State.pipe (s : State) (i : PipeId) : Pipe := s.pipes[i]

/-- Replace `pipe[i]` by its image under `f`. -/
def State.modPipe (s : State) (i : PipeId) (f : Pipe → Pipe) : State :=
  { s with pipes := s.pipes.set i (f (s.pipe i)) }

/-- `port[p]`. -/
def State.port (s : State) : FPort → Port
  | .c => s.portC
  | .d0 => s.portD0
  | .d1 => s.portD1

/-- Replace `port[p]` by its image under `f`. -/
def State.modPort (s : State) (p : FPort) (f : Port → Port) : State :=
  match p with
  | .c => { s with portC := f s.portC }
  | .d0 => { s with portD0 := f s.portD0 }
  | .d1 => { s with portD1 := f s.portD1 }

/-- `chan[p]`. -/
def State.chan (s : State) : DPort → Chan
  | .d0 => s.chanD0
  | .d1 => s.chanD1

/-- Replace `chan[p]` by its image under `f`. -/
def State.modChan (s : State) (p : DPort) (f : Chan → Chan) : State :=
  match p with
  | .d0 => { s with chanD0 := f s.chanD0 }
  | .d1 => { s with chanD1 := f s.chanD1 }

/-- `link[k]`. -/
def State.link (s : State) (k : PortId) : Link := s.links[k]

/-- Replace `link[k]` by its image under `f`. -/
def State.modLink (s : State) (k : PortId) (f : Link → Link) : State :=
  { s with links := s.links.set k (f (s.link k)) }

/-- Replace `ctrl` by its image under `f`. -/
def State.modCtrl (s : State) (f : Ctrl → Ctrl) : State := { s with ctrl := f s.ctrl }

/-- `return <status>` (R12, R252). -/
def State.returns (s : State) (r : Status) : State := { s with ret := some r }

/-- Give every existing pipe's toggle bit the value of its bit in `t` (R23). -/
def State.setToggles (s : State) (t : BitVec 16) : State :=
  { s with
    pipes := Vector.ofFn fun i : PipeId =>
      if i.val < s.cfg.numPipes then { s.pipe i with toggle := t.getLsbD i.val } else s.pipe i }

/-- Replace buffer memory. -/
def State.setMem (s : State) (m : Memory) : State := { s with mem := m }

/-- Replace what the environment will draw. -/
def State.setDraws (s : State) (d : Draws) : State := { s with draws := d }

/-- Replace what the agents do next. -/
def State.setInbox (s : State) (l : List Input) : State := { s with inbox := l }

/-- `tx_log <- tx_log ++ l` (R42). -/
def State.addTx (s : State) (l : List TxEntry) : State := { s with txLog := s.txLog ++ l }

/-- `fifo_log <- fifo_log ++ l` (R43). -/
def State.addFifo (s : State) (l : List FifoEntry) : State := { s with fifoLog := s.fifoLog ++ l }

/-- `Notify(event, port, speed)` (R12, R44). -/
def State.addEv (s : State) (e : EvEntry) : State := { s with evLog := s.evLog ++ [e] }

/-- `Delay(t)` (R12, R14, R45). -/
def State.addTime (s : State) (e : TimeEntry) : State := { s with timeLog := s.timeLog ++ [e] }

/-- `Callback(cb, pipe, result, bytes)` (R12, R46): a log entry and nothing else (R218). -/
def State.addCb (s : State) (e : CbEntry) : State := { s with cbLog := s.cbLog ++ [e] }

/-- `setup_log <- setup_log ++ [v]` (R46, R191). -/
def State.addSetup (s : State) (v : Vector Byte 8) : State := { s with setupLog := s.setupLog ++ [v] }

/-! ### Operand forms -/

/-- The pipe a number names, if `ValidPipe` (R20, R100). -/
def State.pipeOf? (s : State) (n : Nat) : Option PipeId :=
  if h : n < 16 then (if n < s.cfg.numPipes then some ⟨n, h⟩ else none) else none

/-- The physical port a number names, if it exists (R87). -/
def State.portOf? (s : State) (n : Nat) : Option PortId :=
  if h : n < 2 then (if n < s.cfg.numPhysPorts then some ⟨n, h⟩ else none) else none

/-- All sixteen pipe numbers, ascending. -/
def allPipes : List PipeId := [0, 1, 2, 3, 4, 5, 6, 7, 8, 9, 10, 11, 12, 13, 14, 15]

/-- Both physical port numbers, ascending. -/
def allPorts : List PortId := [0, 1]

/-- `xdir` of a USB direction (R26). -/
def xdirOf (m : Mode) (d : UsbDir) : Dir :=
  match m, d with
  | .host, .out => .tx
  | .host, .inn => .rx
  | .peripheral, .inn => .tx
  | .peripheral, .out => .rx

/-- `xdir(i)` (R26), for i > 0. -/
def State.xdir (s : State) (i : PipeId) : Dir := xdirOf s.cfg.mode (s.pipe i).dir

/-- `route(i)` (R29). -/
def State.route (s : State) (i : PipeId) : Dir := if i = 0 then (s.pipe 0).curDir else s.xdir i

/-- `Busy(i)` (R100). -/
def State.busy (s : State) (i : PipeId) : Bool :=
  decide ((s.pipe i).slotRx.state ≠ .idle) || decide ((s.pipe i).slotTx.state ≠ .idle)

/-- `buf + len > 2^32` (R62). -/
def bufferWraps (buf len : Word) : Bool := decide (2 ^ 32 < buf.toNat + len.toNat)

/-- `ceil(a/b)` (R11). -/
def ceilDiv (a b : Nat) : Nat := (a + b - 1) / b

/-- `wlen` (R190): bytes 6 and 7 of the setup packet, low byte first. -/
def Ctrl.wlen (c : Ctrl) : Nat := c.setup[6].toNat + 256 * c.setup[7].toNat

/-- `dir_in` (R190): bit 7 of byte 0 of the setup packet. -/
def Ctrl.dirIn (c : Ctrl) : Bool := c.setup[0].getLsbD 7

/-- Direction of the data stage (R195). -/
def Ctrl.dataDir (c : Ctrl) : Dir := if c.dirIn then .tx else .rx

/-- The eight bytes of a setup packet (R239). -/
def setupOf? (bs : List Byte) : Option (Vector Byte 8) :=
  if h : bs.length = 8 then some ⟨bs.toArray, by simp [h]⟩ else none

/-- `DMA_BLOCK_SIZE[p]` (R9). -/
def State.blockSize (s : State) : DPort → Nat
  | .d0 => s.cfg.dmaBlockSizeD0
  | .d1 => s.cfg.dmaBlockSizeD1

/-- Element width (R153): the largest width of `DMA_WIDTHS` that divides the transfer size; 1 is always among them. -/
def elementWidth (widths : List Nat) (size : Nat) : Nat :=
  (widths.filter fun x => decide (x ≠ 0) && decide (size % x = 0)).foldl max 1

/-- `WORD_BYTES` as a number (R9). -/
def wordBytesOf : WordBytes → Nat
  | .two => 2
  | .four => 4

/-- `speed_of(conn)` (R170). -/
def speedOf : Conn → Speed
  | .cLowSpeed => .sLow
  | .cFullSpeed => .sFull
  | .cHighSpeed => .sHigh
  | .cDetached => .sNone
  | .cHsNegotiating => .sNone

end Sys2Proof.Machine
end

