-- ==== Sys2Proof/Machine/Flags.lean ====
section
/-! DEFINITION. The five status/enable register pairs (R39, R40): their sources, one bit at a time, the helpers
`DisableSources`, `ClearStatus` (R100) and `Gate` (R41), and which sources are pending (R210). -/

namespace Sys2Proof.Machine

/-- Bit `i` of a register `<- b`; every other bit stays as it was (R214). -/
def setBit {w : Nat} (r : BitVec w) (i : Nat) (b : Bool) : BitVec w :=
  if b then r ||| BitVec.twoPow w i else r &&& ~~~ BitVec.twoPow w i

/-- The status registers, in the order of `sid[7:5]` (R83, R212). -/
inductive EvtReg where
  | brdy
  | bemp
  | nrdy
  | link
  | ctrl
  deriving DecidableEq, Repr

/-- The event sources (R83). Reserved bits have none: they read 0 and are never set (R39). -/
inductive Source where
  | brdy (i : PipeId)
  | bemp (i : PipeId)
  | nrdy (i : PipeId)
  | attach (k : PortId)
  | detach (k : PortId)
  | linechg (k : PortId)
  | setup
  | stsdone
  | seqerr
  deriving DecidableEq, Repr

/-- The register of a source (R83). -/
def Source.reg : Source → EvtReg
  | .brdy _ => .brdy
  | .bemp _ => .bemp
  | .nrdy _ => .nrdy
  | .attach _ => .link
  | .detach _ => .link
  | .linechg _ => .link
  | .setup => .ctrl
  | .stsdone => .ctrl
  | .seqerr => .ctrl

/-- The bit of a source in its register, `sid[4:0]` (R39, R83). -/
def Source.bit : Source → Nat
  | .brdy i => i.val
  | .bemp i => i.val
  | .nrdy i => i.val
  | .attach k => 4 * k.val
  | .detach k => 4 * k.val + 1
  | .linechg k => 4 * k.val + 2
  | .setup => 0
  | .stsdone => 1
  | .seqerr => 2

/-- The sources of a register in ascending bit number (R211). -/
def EvtReg.sources : EvtReg → List Source
  | .brdy => allPipes.map .brdy
  | .bemp => allPipes.map .bemp
  | .nrdy => allPipes.map .nrdy
  | .link => [.attach 0, .detach 0, .linechg 0, .attach 1, .detach 1, .linechg 1]
  | .ctrl => [.setup, .stsdone, .seqerr]

/-- The registers in the order the dispatcher reads them (R211, R212). -/
def allRegs : List EvtReg := [.brdy, .bemp, .nrdy, .link, .ctrl]

/-- The status bit of a source. -/
def State.sts (s : State) (x : Source) : Bool :=
  match x.reg with
  | .brdy => s.brdysts.getLsbD x.bit
  | .bemp => s.bempsts.getLsbD x.bit
  | .nrdy => s.nrdysts.getLsbD x.bit
  | .link => s.linksts.getLsbD x.bit
  | .ctrl => s.ctrlsts.getLsbD x.bit

/-- The enable bit of a source. -/
def State.enb (s : State) (x : Source) : Bool :=
  match x.reg with
  | .brdy => s.brdyenb.getLsbD x.bit
  | .bemp => s.bempenb.getLsbD x.bit
  | .nrdy => s.nrdyenb.getLsbD x.bit
  | .link => s.linkenb.getLsbD x.bit
  | .ctrl => s.ctrlenb.getLsbD x.bit

/-- Write the status bit of a source. -/
def State.setSts (s : State) (x : Source) (b : Bool) : State :=
  match x.reg with
  | .brdy => { s with brdysts := setBit s.brdysts x.bit b }
  | .bemp => { s with bempsts := setBit s.bempsts x.bit b }
  | .nrdy => { s with nrdysts := setBit s.nrdysts x.bit b }
  | .link => { s with linksts := setBit s.linksts x.bit b }
  | .ctrl => { s with ctrlsts := setBit s.ctrlsts x.bit b }

/-- Write the enable bit of a source. -/
def State.setEnb (s : State) (x : Source) (b : Bool) : State :=
  match x.reg with
  | .brdy => { s with brdyenb := setBit s.brdyenb x.bit b }
  | .bemp => { s with bempenb := setBit s.bempenb x.bit b }
  | .nrdy => { s with nrdyenb := setBit s.nrdyenb x.bit b }
  | .link => { s with linkenb := setBit s.linkenb x.bit b }
  | .ctrl => { s with ctrlenb := setBit s.ctrlenb x.bit b }

/-- A source that is pending and enabled (R40, R210). -/
def State.pending (s : State) (x : Source) : Bool := s.sts x && s.enb x

/-- The interrupt request of the controller instance (R210). -/
def State.irqAsserted (s : State) : Bool := allRegs.any fun r => r.sources.any s.pending

/-- `DisableSources(i)` (R100). -/
def disableSources (i : PipeId) (s : State) : State :=
  ((s.setEnb (.brdy i) false).setEnb (.nrdy i) false).setEnb (.bemp i) false

/-- `ClearStatus(i)` (R100). -/
def clearStatus (i : PipeId) (s : State) : State :=
  ((s.setSts (.brdy i) false).setSts (.nrdy i) false).setSts (.bemp i) false

/-- Which link sources a link state enables: `ATTACH`, `DETACH`, `LINECHG` (R41). -/
def gateBits : LinkState → Bool × Bool × Bool
  | .detached => (true, false, false)
  | .attachDetecting => (false, false, false)
  | .resetting => (false, false, false)
  | .resuming => (false, false, false)
  | .lowSpeedAttached => (false, true, false)
  | .fullSpeedAttached => (false, true, false)
  | .active => (false, true, false)
  | .suspended => (false, true, true)

/-- `Gate(k)` (R41). -/
def gate (k : PortId) (s : State) : State :=
  let g := gateBits (s.link k).state
  ((s.setEnb (.attach k) g.1).setEnb (.detach k) g.2.1).setEnb (.linechg k) g.2.2

/-- `SENS[r]` (R213). -/
def State.sens (s : State) : EvtReg → Sens
  | .brdy => s.cfg.sensBrdy
  | .bemp => s.cfg.sensBemp
  | .nrdy => s.cfg.sensNrdy
  | .link => s.cfg.sensLink
  | .ctrl => s.cfg.sensCtrl

end Sys2Proof.Machine
end

