-- ==== Sys2Proof/Machine/Ops.lean ====
section
/-! DEFINITION. The shared operations: buffer memory (R60 to R62), the environment's draws (R243), the output logs
(R12), the FIFO data path (R64 to R68), port arbitration (R104, R106), and the end of a request (R130, R198): the one
forced termination every error goes through, and the normal completion beside it. The block takes no exception in the
processor sense (60_exceptions.md): what stands in its place is `terminateAll` with a result code. -/

namespace Sys2Proof.Machine

/-! ### Buffer memory -/

/-- What an address that is not listed reads as (log entry 7). -/
def Memory.unlisted : Byte := 0

/-- `Mem[a]`. -/
def Memory.read : Memory → Nat → Byte
  | [], _ => Memory.unlisted
  | (k, v) :: m, a => if k = a then v else Memory.read m a

/-- Put a cell before the first one with a larger address. -/
def Memory.insert : Memory → Nat → Byte → Memory
  | [], a, b => [(a, b)]
  | (k, v) :: m, a, b => if a < k then (a, b) :: (k, v) :: m else (k, v) :: Memory.insert m a b

/-- `Mem[a] <- b`, keeping the canonical form. -/
def Memory.write (m : Memory) (a : Nat) (b : Byte) : Memory :=
  if b = Memory.unlisted then m.filter fun c => decide (c.1 ≠ a)
  else Memory.insert (m.filter fun c => decide (c.1 ≠ a)) a b

/-- The addresses of a memory rise strictly from above `lo`. -/
def Memory.rising : Nat → Memory → Bool
  | _, [] => true
  | lo, (k, _) :: m => decide (lo ≤ k) && Memory.rising (k + 1) m

/-- The canonical form: addresses strictly rising and below 2^32, no entry equal to what an unlisted address reads as. -/
def Memory.wf (m : Memory) : Bool :=
  Memory.rising 0 m && m.all fun c => decide (c.1 < 2 ^ 32) && decide (c.2 ≠ Memory.unlisted)

/-- `MemRead(addr, n)` (R61, R62). -/
def memRead (m : Memory) (addr : Word) : Nat → List Byte
  | 0 => []
  | n + 1 => Memory.read m addr.toNat :: memRead m (addr + 1) n

/-- `MemWrite(addr, length bs, bs)`, lowest address first (R61, R62). -/
def memWrite (m : Memory) (addr : Word) : List Byte → Memory
  | [] => m
  | b :: bs => memWrite (Memory.write m addr.toNat b) (addr + 1) bs

/-! ### Draws -/

/-- `Draw(clear_polls)` (R106): a natural of at least 1. -/
def drawClearPolls (s : State) : Nat × State :=
  match s.draws.clearPolls with
  | n :: rest => (max 1 n, s.setDraws { s.draws with clearPolls := rest })
  | [] => (max 1 (Config.freeClearPolls s.draws.count), s.setDraws { s.draws with count := s.draws.count + 1 })

/-- `Draw(line_state(k))` (R172). -/
def drawLineState (s : State) : LineState × State :=
  match s.draws.lineState with
  | l :: rest => (l, s.setDraws { s.draws with lineState := rest })
  | [] => (Config.freeLineState s.draws.count, s.setDraws { s.draws with count := s.draws.count + 1 })

/-- The range of `reset_handshake(k)` (R173): what a handshake value is under the attach-time speed `att`. -/
def handshakeInRange (att : Speed) (h : Handshake) : Handshake :=
  match att, h with
  | .sLow, .hsDoneLow => .hsDoneLow
  | .sFull, .hsDoneFull => .hsDoneFull
  | .sFull, .hsDoneHigh => .hsDoneHigh
  | _, _ => .hsInProgress

/-- `Draw(reset_handshake(k))` (R173). -/
def drawHandshake (att : Speed) (s : State) : Handshake × State :=
  match s.draws.handshake with
  | h :: rest => (handshakeInRange att h, s.setDraws { s.draws with handshake := rest })
  | [] =>
    (handshakeInRange att (Config.freeHandshake s.draws.count),
      s.setDraws { s.draws with count := s.draws.count + 1 })

/-- `Draw(dma_rx_block)` (R242): a byte list no longer than the block size. -/
def drawRxBlock (b : Nat) (s : State) : List Byte × State :=
  match s.draws.rxBlock with
  | bs :: rest => (bs.take b, s.setDraws { s.draws with rxBlock := rest })
  | [] =>
    ((Config.freeRxBlock s.draws.count).take b, s.setDraws { s.draws with count := s.draws.count + 1 })

/-- The toggle bits that a `Hw` step leaves (R23, R244). -/
def drawToggles (s : State) : BitVec 16 × State :=
  match s.draws.toggles with
  | t :: rest => (t, s.setDraws { s.draws with toggles := rest })
  | [] => (Config.freeToggles s.draws.count, s.setDraws { s.draws with count := s.draws.count + 1 })

/-- `pipe[i].toggle` "may be changed by `Hw` at any step" (R244): every existing pipe's toggle bit takes any value. -/
def hwToggles (s : State) : State :=
  let r := drawToggles s
  r.2.setToggles r.1

/-! ### Output logs (R12) -/

/-- `Delay(t)` (R14). -/
def delay (t : Nat) (s : State) : State := s.addTime (.delay t)

/-- `Notify(event, port, speed)` (R44). -/
def notify (e : Event) (k : PortId) (v : Speed) (s : State) : State := s.addEv ⟨e, k, v⟩

/-- `Callback(cb, pipe, result, bytes)` (R46): a log entry and nothing else (R218). -/
def callback (cb : Word) (i : PipeId) (res : Result) (n : Nat) (s : State) : State :=
  s.addCb ⟨cb, i, res, n⟩

/-! ### FIFO data path -/

/-- Value of a little-endian word (R64). -/
def leValue : List Byte → Nat
  | [] => 0
  | b :: bs => b.toNat + 256 * leValue bs

/-- Register value of a word access that carries `bs` (R64). -/
def fifoValue (e : Endian) (bs : List Byte) : Nat :=
  match e with
  | .little => leValue bs
  | .big => leValue bs.reverse

/-- The accesses for `bs`: whole words of `w` bytes, then one byte access for each byte left over (R66). -/
def fifoSplit (p : FPort) (rw : Rw) (w : Nat) (e : Endian) (bs : List Byte) : List FifoEntry :=
  ((List.range (bs.length / w)).map fun j => FifoEntry.mk p rw w (fifoValue e ((bs.drop (j * w)).take w))) ++
  (bs.drop (bs.length / w * w)).map fun b => FifoEntry.mk p rw 1 b.toNat

/-- Append the accesses for `bs` to `fifo_log` (R43). -/
def logFifo (p : FPort) (rw : Rw) (bs : List Byte) (s : State) : State :=
  s.addFifo (fifoSplit p rw (wordBytesOf s.cfg.wordBytes) s.cfg.fifoEndian bs)

/-- `FifoWrite(p, bs)` (R66). -/
def fifoWrite (p : FPort) (bs : List Byte) (s : State) : State :=
  (logFifo p .w bs s).modPort p fun q => { q with stage := q.stage ++ bs }

/-- `FifoRead(p, n)` for receiving pipe `i` (R67): the bytes, and the state after the packet buffer is released. -/
def fifoRead (p : FPort) (i : PipeId) (n : Nat) (s : State) : List Byte × State :=
  let bs := ((s.pipe i).rxFifo.getD []).take n
  (bs, (logFifo p .r bs s).modPipe i fun q => { q with rxFifo := none })

/-- `Commit(i, bval)` through port `p`, the port pipe `i` owns (R68). -/
def commit (p : FPort) (i : PipeId) (bval : Bool) (s : State) : State :=
  (s.addTx [⟨i, (s.port p).stage, bval⟩]).modPort p fun q => { q with stage := [] }

/-! ### Port arbitration -/

/-- `ClearPort(p)` (R106): whether the clear was confirmed in time, and the state after it. -/
def clearPort (p : FPort) (s : State) : Bool × State :=
  let r := drawClearPolls s
  if s.cfg.portClearMaxSpin < r.1 then (false, r.2)
  else (true, r.2.modPort p fun q => { q with owner := none, stage := [] })

/-- Drop pipe `i` from a port `q` other than `p` (R104, "a pipe owns at most one port"). -/
def dropPort (i : PipeId) (p q : FPort) (s : State) : State :=
  if q ≠ p ∧ (s.port q).owner = some i then s.modPort q fun x => { x with owner := none, stage := [] } else s

/-- The loop of R104 over the ports other than `p`. -/
def dropOthers (i : PipeId) (p : FPort) (s : State) : State :=
  dropPort i p .d1 (dropPort i p .d0 (dropPort i p .c s))

/-- The outcome of the clear inside `AcquirePort`: bind the port, or mark the pipe wedged (R104). -/
def bindOrWedge (i : PipeId) (p : FPort) (s : State) : Bool × State :=
  let r := clearPort p s
  (r.1, if r.1 then r.2.modPort p fun q => { q with owner := some i }
        else r.2.modPipe i fun q => { q with wedged := true })

/-- Write the three enable bits of pipe `i` (R104). -/
def restoreSources (i : PipeId) (b n e : Bool) (s : State) : State :=
  ((s.setEnb (.brdy i) b).setEnb (.nrdy i) n).setEnb (.bemp i) e

/-- `AcquirePort(i, p)` (R104): ok or fail, and the state after it. -/
def acquirePort (i : PipeId) (p : FPort) (s : State) : Bool × State :=
  if (s.port p).owner = some i then (true, s)
  else
    let r := bindOrWedge i p (dropOthers i p (disableSources i s))
    (r.1, restoreSources i (s.enb (.brdy i)) (s.enb (.nrdy i)) (s.enb (.bemp i)) r.2)

/-! ### The end of a request -/

/-- `CtrlDataDone(result)` (R198). -/
def ctrlDataDone (res : Result) (s : State) : State :=
  if s.cfg.mode ≠ .peripheral ∨ s.ctrl.state ≠ .cDataStage then s
  else if res = .exact ∨ res = .shortPacket then
    (s.modPipe 0 fun q => { q with pid := .buf }).modCtrl fun c => { c with statusEn := true, state := .cStatusStage }
  else
    (s.modPipe 0 fun q => { q with pid := .stall }).modCtrl fun c => { c with statusEn := false, state := .cStalled }

/-- `Finish(i, d, result)` (R130): the slot is freed, the callback runs, and for pipe 0 the data stage ends. -/
def finish (i : PipeId) (d : Dir) (res : Result) (s : State) : State :=
  let x := (s.pipe i).slot d
  let t := callback x.cb i res (x.reqLen.toNat - x.remaining.toNat) (s.modPipe i fun q => q.setSlot d Slot.empty)
  if i = 0 then ctrlDataDone res t else t

/-- `Complete(i, d, result)` (R130): the normal end of one slot. -/
def complete (i : PipeId) (d : Dir) (res : Result) (s : State) : State :=
  let s1 := s.modPipe i fun q => { q with ignoreCnt := 0, trncnt := 0 }
  let s2 :=
    if i = 0 ∧ ((s1.pipe 0).slot d.other).state ≠ .idle then s1.modPipe 0 fun q => { q with curDir := d.other }
    else (disableSources i s1).modPipe i fun q => { q with pid := .nak }
  finish i d res s2

/-- The channel teardown of `TerminateAll` for one port (R130): "DMA is never left armed across a forced termination". -/
def dropChan (i : PipeId) (p : DPort) (s : State) : State :=
  if (s.chan p).bound = true ∧ (s.chan p).pipe = i then
    (s.modChan p fun c => { c with armed := false, bound := false, done := false }).modPort p.fport fun q =>
      { q with dreq := false }
  else s

/-- The port clear of `TerminateAll` for one port (R130). -/
def clearOwned (i : PipeId) (p : FPort) (s : State) : State :=
  if (s.port p).owner = some i then
    let r := clearPort p s
    if r.1 then r.2 else r.2.modPipe i fun q => { q with wedged := true }
  else s

/-- `Finish` for a slot that is outstanding. -/
def finishIfBusy (i : PipeId) (d : Dir) (res : Result) (s : State) : State :=
  if ((s.pipe i).slot d).state ≠ .idle then finish i d res s else s

/-- `TerminateAll` (R130) up to the callbacks: sources off, status clear, DMA disarmed, ports cleared, PID NAK. -/
def quiesce (i : PipeId) (s : State) : State :=
  let s1 := (clearStatus i (disableSources i s)).modPipe i fun q => { q with trncnt := 0, ignoreCnt := 0 }
  let s2 := dropChan i .d1 (dropChan i .d0 s1)
  let s3 := clearOwned i .d1 (clearOwned i .d0 (clearOwned i .c s2))
  s3.modPipe i fun q => { q with rxFifo := none, pid := .nak }

/-- `TerminateAll(i, result)` (R130): every outstanding slot of the pipe ends with the same result code, the routed slot
first. -/
def terminateAll (i : PipeId) (res : Result) (s : State) : State :=
  let t := quiesce i s
  finishIfBusy i (t.route i).other res (finishIfBusy i (t.route i) res t)

/-- `if Busy(i) : TerminateAll(i, result)`. -/
def terminateIfBusy (i : PipeId) (res : Result) (s : State) : State := if s.busy i then terminateAll i res s else s

end Sys2Proof.Machine
end

