-- ==== Sys2Proof/Machine/PipeManager.lean ====
section
/-! DEFINITION. Pipe/FIFO Manager (40_pipe_fifo_manager.md): `CONFIGURE_PIPE`, `RELEASE_PIPE`, `ACQUIRE_PORT`. -/

namespace Sys2Proof.Machine

/-- What a successful `CONFIGURE_PIPE` makes of the pipe's record (R101). -/
def Pipe.configure (i : PipeId) (t : TType) (d : UsbDir) (mps : Nat) (dev : Option (BitVec 7)) (q : Pipe) : Pipe :=
  { q with
    configured := true
    ttype := if i = 0 then q.ttype else t
    dir := if i = 0 then q.dir else d
    mps := mps
    devaddr := dev
    toggle := false
    pid := .nak
    trncnt := 0
    ignoreCnt := 0
    wedged := false
    rxFifo := none }

/-- The argument checks of `CONFIGURE_PIPE` after `ValidPipe` (R87, R101): pipe 0 is the control pipe and only it, and
a device address is given exactly in host mode. -/
def configureArgsOk (m : Mode) (i : PipeId) (t : TType) (d : UsbDir) (mps : BitVec 11) (dev : Option (BitVec 7)) :
    Bool :=
  decide (1 ≤ mps.toNat) && decide (mps.toNat ≤ 1024) &&
  (if i = 0 then decide (t = .control) && decide (d = .out) else decide (t ≠ .control)) &&
  (match m with
   | .host => dev.isSome
   | .peripheral => dev.isNone)

/-- `CONFIGURE_PIPE` (R101). -/
def execConfigurePipe (idx : BitVec 8) (t : TType) (d : UsbDir) (mps : BitVec 11) (dev : Option (BitVec 7))
    (s : State) : Host.Outcome State Fault Refusal :=
  match s.pipeOf? idx.toNat with
  | none => .next (s.returns .invalidArg)
  | some i =>
    if configureArgsOk s.cfg.mode i t d mps dev = false then .next (s.returns .invalidArg)
    else if s.busy i then .next (s.returns .busy)
    else .next ((clearStatus i (disableSources i (s.modPipe i (Pipe.configure i t d mps.toNat dev)))).returns .ok)

/-- What `RELEASE_PIPE` makes of the pipe's record (R108): pipe 0 is never marked free and keeps its address. -/
def Pipe.release (i : PipeId) (q : Pipe) : Pipe :=
  { q with
    trncnt := 0
    ignoreCnt := 0
    pid := .nak
    toggle := false
    rxFifo := none
    configured := if i = 0 then q.configured else false
    devaddr := if i = 0 then q.devaddr else none }

/-- The body `ReleasePipe(i)` (R108), shared with the detach handler (R175). -/
def releasePipe (i : PipeId) (s : State) : State :=
  (clearStatus i (disableSources i (terminateIfBusy i .stopped s))).modPipe i (Pipe.release i)

/-- `RELEASE_PIPE` (R108). -/
def execReleasePipe (idx : BitVec 8) (s : State) : Host.Outcome State Fault Refusal :=
  match s.pipeOf? idx.toNat with
  | none => .next (s.returns .invalidArg)
  | some i => .next ((releasePipe i s).returns .ok)

/-- What `ACQUIRE_PORT` does with the answer of `AcquirePort` (R103). -/
def acquireResult (i : PipeId) (r : Bool × State) : State :=
  if r.1 then r.2.returns .ok else (terminateIfBusy i .portWedged r.2).returns .portWedgedNow

/-- `ACQUIRE_PORT` (R103). -/
def execAcquirePort (idx : BitVec 8) (f : FPort) (s : State) : Host.Outcome State Fault Refusal :=
  match s.pipeOf? idx.toNat with
  | none => .next (s.returns .invalidArg)
  | some i =>
    if (s.pipe i).configured = false then .next (s.returns .invalidState)
    else if (s.pipe i).wedged then .next (s.returns .portWedgedNow)
    else .next (acquireResult i (acquirePort i f s))

end Sys2Proof.Machine
end

