-- ==== Sys2Proof/Machine/HostLink.lean ====
section
/-! DEFINITION. Host link/device state machine (43_host_link.md): the `LINK_*` commands and the handlers `H_ATTACH`,
`H_DETACH`, `H_LINECHG`. The family exists only when `MODE = Host` (R88). -/

namespace Sys2Proof.Machine

/-- `link[k].state <- x ; Gate(k)`. -/
def enterLink (k : PortId) (x : LinkState) (s : State) : State := gate k (s.modLink k fun l => { l with state := x })

/-- A `LINK_*` command: a bad port number is `InvalidArg` (R87), the wrong mode `InvalidState` (R88), in that order
(DEDUCED, log entry 10). -/
def linkCommand (idx : BitVec 8) (s : State) (f : PortId → State) : Host.Outcome State Fault Refusal :=
  match s.portOf? idx.toNat with
  | none => .next (s.returns .invalidArg)
  | some k => .next (if s.cfg.mode ≠ .host then s.returns .invalidState else f k)

/-- A host-link handler: a port number that does not exist never occurs (R83), and the family exists only in host mode
(R88). -/
def linkHandler (k : BitVec 3) (s : State) (f : PortId → State) : Host.Outcome State Fault Refusal :=
  match s.portOf? k.toNat with
  | none => .refused .reservedSource
  | some k => if s.cfg.mode ≠ .host then .refused .wrongMode else .next (f k)

/-! ### Attach -/

/-- The handler `H_ATTACH(k)` (R171). -/
def handleAttach (k : PortId) (s : State) : State :=
  if (s.link k).state ≠ .detached then s else enterLink k .attachDetecting s

/-- The debounce loop (R172), for `n` tries left and the last reading `a`: the settled reading, if any. -/
def debounce : Nat → LineState → State → Option LineState × State
  | 0, _, s => (none, s)
  | n + 1, a, s =>
    let r := drawLineState (delay s.cfg.debounceGap s)
    if a = r.1 then (some a, r.2) else debounce n r.1 r.2

/-- `link[k].state <- x ; link[k].conn <- c`. -/
def setLink (k : PortId) (x : LinkState) (c : Conn) (s : State) : State :=
  s.modLink k fun l => { l with state := x, conn := c }

/-- What the debounce loop's answer makes of the port (R172). -/
def attachOutcome (k : PortId) (r : Option LineState × State) : State :=
  match r.1 with
  | some .lsLow => notify .evAttach k .sLow (setLink k .lowSpeedAttached .cLowSpeed r.2)
  | some .lsFull => notify .evAttach k .sFull (setLink k .fullSpeedAttached .cFullSpeed r.2)
  | some .lsNone => setLink k .detached .cDetached r.2
  | some .lsInvalid => setLink k .detached .cDetached r.2
  | none => setLink k .detached .cDetached r.2

/-- `LINK_ATTACH_PROCESS` on port `k` (R172). -/
def linkAttachProcess (k : PortId) (s : State) : State :=
  if (s.link k).state ≠ .attachDetecting then s.returns .invalidState
  else
    let a := drawLineState s
    (gate k (attachOutcome k (debounce s.cfg.debounceMaxTries a.1 a.2))).returns .ok

/-- `LINK_ATTACH_PROCESS` (R172). -/
def execLinkAttachProcess (idx : BitVec 8) (s : State) : Host.Outcome State Fault Refusal :=
  linkCommand idx s fun k => linkAttachProcess k s

/-! ### Bus reset -/

/-- The speed a handshake status reports (R174). -/
def handshakeSpeed : Handshake → Option Speed
  | .hsDoneLow => some .sLow
  | .hsDoneFull => some .sFull
  | .hsDoneHigh => some .sHigh
  | .hsInProgress => none

/-- The handshake poll (R174), for `n` polls left: the negotiated speed, if any. -/
def resetPoll (att : Speed) : Nat → State → Option Speed × State
  | 0, s => (none, s)
  | n + 1, s =>
    let r := drawHandshake att s
    match handshakeSpeed r.1 with
    | some v => (some v, r.2)
    | none => resetPoll att n (delay r.2.cfg.resetPollDelay r.2)

/-- The connection status of a speed (R174). -/
def connOf : Speed → Conn
  | .sLow => .cLowSpeed
  | .sFull => .cFullSpeed
  | .sHigh => .cHighSpeed
  | .sNone => .cDetached

/-- The attach-time speed (R173), in the two states a bus reset starts from. -/
def attachSpeed : LinkState → Option Speed
  | .lowSpeedAttached => some .sLow
  | .fullSpeedAttached => some .sFull
  | .detached => none
  | .attachDetecting => none
  | .resetting => none
  | .active => none
  | .suspended => none
  | .resuming => none

/-- Reset asserted for `RESET_ASSERT_TIME` (R174), then the connection status while negotiating. -/
def assertReset (k : PortId) (att : Speed) (s : State) : State :=
  let s1 := enterLink k .resetting s
  let s2 := delay s1.cfg.resetAssertTime (s1.modLink k fun l => { l with resetSig := true })
  s2.modLink k fun l => { l with resetSig := false, conn := if att = .sFull then .cHsNegotiating else l.conn }

/-- The end of a bus reset at speed `v` (R174): recovery interval, then the port is `Active`. -/
def finishReset (k : PortId) (v : Speed) (s : State) : State :=
  let s1 := delay s.cfg.resetRecoveryTime (s.modLink k fun l => { l with conn := connOf v })
  notify .evBusResetComplete k v (enterLink k .active (s1.modLink k fun l => { l with busActive := true }))

/-- `LINK_BUS_RESET` on port `k` (R174): an exhausted budget keeps the attach-time speed. -/
def linkBusReset (k : PortId) (s : State) : State :=
  match attachSpeed (s.link k).state with
  | none => s.returns .invalidState
  | some att =>
    let r := resetPoll att s.cfg.resetPollMax (assertReset k att s)
    (finishReset k (r.1.getD att) r.2).returns .ok

/-- `LINK_BUS_RESET` (R174). -/
def execLinkBusReset (idx : BitVec 8) (s : State) : Host.Outcome State Fault Refusal :=
  linkCommand idx s fun k => linkBusReset k s

/-! ### Detach and the address mapping -/

/-- One turn of the loop of `H_DETACH` (R175). -/
def detachPipe (da : BitVec 7) (s : State) (i : PipeId) : State :=
  if i.val < s.cfg.numPipes ∧ (s.pipe i).configured = true ∧ (s.pipe i).devaddr = some da then
    let t := releasePipe i s
    if i = 0 then t.modPipe 0 fun q => { q with devaddr := some 0 } else t
  else s

/-- The link record after a detach (R175). -/
def Link.detach (l : Link) : Link :=
  { l with
    dev := none
    conn := .cDetached
    suspended := false
    busActive := false
    wakeReq := false
    resetSig := false
    resumeSig := false
    state := .detached }

/-- The handler `H_DETACH(k)` (R175). -/
def handleDetach (k : PortId) (s : State) : State :=
  if (s.link k).state = .detached ∨ (s.link k).state = .attachDetecting then s
  else
    let t := allPipes.foldl (detachPipe ((s.link k).dev.getD 0)) s
    notify .evDetach k .sNone (gate k (t.modLink k Link.detach))

/-- Another existing port is mapped to address `a` (R176). -/
def State.addressTaken (s : State) (k : PortId) (a : BitVec 7) : Bool :=
  allPorts.any fun j => decide (j ≠ k) && decide (j.val < s.cfg.numPhysPorts) && decide ((s.link j).dev = some a)

/-- `LINK_SET_ADDRESS` on port `k` (R176). -/
def linkSetAddress (k : PortId) (a : BitVec 7) (s : State) : State :=
  if (s.link k).state ≠ .active then s.returns .invalidState
  else if s.addressTaken k a then s.returns .invalidArg
  else (s.modLink k fun l => { l with dev := some a }).returns .ok

/-- `LINK_SET_ADDRESS` (R176). -/
def execLinkSetAddress (idx : BitVec 8) (a : BitVec 7) (s : State) : Host.Outcome State Fault Refusal :=
  linkCommand idx s fun k => linkSetAddress k a s

/-! ### Suspend and resume -/

/-- `LINK_SUSPEND` on port `k` (R177). -/
def linkSuspend (k : PortId) (s : State) : State :=
  if (s.link k).state ≠ .active then s.returns .invalidState
  else
    let t := enterLink k .suspended
      (s.modLink k fun l => { l with busActive := false, suspended := true, wakeReq := false })
    (notify .evSuspend k (speedOf (t.link k).conn) t).returns .ok

/-- `LINK_SUSPEND` (R177). -/
def execLinkSuspend (idx : BitVec 8) (s : State) : Host.Outcome State Fault Refusal :=
  linkCommand idx s fun k => linkSuspend k s

/-- `LINK_RESUME` on port `k` (R178). -/
def linkResume (k : PortId) (s : State) : State :=
  if (s.link k).state ≠ .suspended then s.returns .invalidState
  else
    let s1 := (enterLink k .resuming s).modLink k fun l => { l with resumeSig := true }
    let s2 := (delay s1.cfg.resumeSettleTime s1).modLink k fun l => { l with resumeSig := false }
    let t := enterLink k .active
      (s2.modLink k fun l => { l with busActive := true, suspended := false, wakeReq := false })
    (notify .evResume k (speedOf (t.link k).conn) t).returns .ok

/-- `LINK_RESUME` (R178). -/
def execLinkResume (idx : BitVec 8) (s : State) : Host.Outcome State Fault Refusal :=
  linkCommand idx s fun k => linkResume k s

/-- The handler `H_LINECHG(k)` (R179). -/
def handleLinechg (k : PortId) (s : State) : State :=
  if (s.link k).state = .suspended then s.modLink k fun l => { l with wakeReq := true } else s

/-! ### The handlers as the dispatcher calls them -/

/-- `H_ATTACH` (R171). -/
def execHAttach (k : BitVec 3) (s : State) : Host.Outcome State Fault Refusal :=
  linkHandler k s fun k => handleAttach k s

/-- `H_DETACH` (R175). -/
def execHDetach (k : BitVec 3) (s : State) : Host.Outcome State Fault Refusal :=
  linkHandler k s fun k => handleDetach k s

/-- `H_LINECHG` (R179). -/
def execHLinechg (k : BitVec 3) (s : State) : Host.Outcome State Fault Refusal :=
  linkHandler k s fun k => handleLinechg k s

end Sys2Proof.Machine
end

