-- ==== Sys2Proof/Machine/CpuTransfer.lean ====
section
/-! DEFINITION. Transfer state machine, CPU path (41_cpu_transfer.md): `READ`, `WRITE`, `STOP`, and the handlers
`H_BRDY`, `H_NRDY`, `H_BEMP`. All CPU-path FIFO access goes through `PORT_C`. -/

namespace Sys2Proof.Machine

/-- The slot's buffer and remaining length after `n` bytes have moved (R125, R126). -/
def Slot.advance (n : Nat) (x : Slot) : Slot :=
  { x with buf := x.buf + BitVec.ofNat 32 n, remaining := BitVec.ofNat 32 (x.remaining.toNat - n) }

/-- `slot.buf <- slot.buf + n ; slot.remaining <- slot.remaining - n`. -/
def advanceSlot (i : PipeId) (d : Dir) (n : Nat) (s : State) : State :=
  s.modPipe i fun q => q.setSlot d ((q.slot d).advance n)

/-- The body of `WriteChunk(i)` once the port is held (R125). -/
def writeOwned (i : PipeId) (s : State) : State :=
  let x := (s.pipe i).slotTx
  let m := (s.pipe i).mps
  let n := min x.remaining.toNat m
  let t := advanceSlot i .tx n (fifoWrite .c (memRead s.mem x.buf n) s)
  if 0 < x.remaining.toNat - n then commit .c i false t
  else if n = m then complete i .tx .exact (commit .c i true (commit .c i false t))
  else complete i .tx .exact (commit .c i true t)

/-- `WriteChunk(i)` (R125). -/
def writeChunk (i : PipeId) (s : State) : State :=
  let r := acquirePort i .c s
  if r.1 then writeOwned i r.2 else terminateAll i .portWedged r.2

/-- The body of `ReadChunk(i)` once the port is held, for the waiting packet `pkt` (R126). -/
def readOwned (i : PipeId) (pkt : List Byte) (s : State) : State :=
  let x := (s.pipe i).slotRx
  let n := min x.remaining.toNat pkt.length
  let r := fifoRead .c i n s
  let t := advanceSlot i .rx n (r.2.setMem (memWrite r.2.mem x.buf r.1))
  if n < pkt.length then complete i .rx .overrun t
  else if x.remaining.toNat - n = 0 then complete i .rx .exact t
  else if pkt.length < (s.pipe i).mps then complete i .rx .shortPacket t
  else t

/-- `ReadChunk(i)` (R126). -/
def readChunk (i : PipeId) (s : State) : State :=
  match (s.pipe i).rxFifo with
  | none => s
  | some pkt =>
    let r := acquirePort i .c s
    if r.1 then readOwned i pkt r.2 else terminateAll i .portWedged r.2

/-- The slot of a request accepted on the CPU path (R120). -/
def cpuSlot (buf len cb : Word) : Slot := ⟨.armed, buf, len, len, cb, .cpu, false⟩

/-- What accepting a CPU-path request makes of the pipe's record (R120). -/
def Pipe.arm (i : PipeId) (d : Dir) (buf len cb : Word) (q : Pipe) : Pipe :=
  { q.setSlot d (cpuSlot buf len cb) with
    trncnt := BitVec.ofNat 32 (ceilDiv len.toNat q.mps)
    ignoreCnt := 0
    curDir := if i = 0 then d else q.curDir
    rxFifo := if d = .rx then none else q.rxFifo
    pid := .buf }

/-- Accepting a request on the CPU path (R120), after the checks and the port. -/
def armCpu (i : PipeId) (d : Dir) (buf len cb : Word) (s : State) : State :=
  ((clearStatus i (s.modPipe i (Pipe.arm i d buf len cb))).setEnb (.brdy i) true).setEnb (.nrdy i) true

/-- The first chunk of a write, if the configuration pushes it (R120). -/
def pushFirst (i : PipeId) (d : Dir) (s : State) : State :=
  if d = .tx ∧ s.cfg.pushFirstOnWrite = true then writeChunk i s else s

/-- `StartCommon(i, d, buf, len, cb)` (R120). -/
def startCommon (i : PipeId) (d : Dir) (buf len cb : Word) (s : State) : State :=
  if (s.pipe i).configured = false then s.returns .invalidState
  else if (s.pipe i).wedged then s.returns .portWedgedNow
  else if i ≠ 0 ∧ s.xdir i ≠ d then s.returns .invalidArg
  else if bufferWraps buf len then s.returns .invalidArg
  else if ((s.pipe i).slot d).state ≠ .idle then s.returns .queueOverrun
  else
    let r := acquirePort i .c s
    if r.1 then (pushFirst i d (armCpu i d buf len cb r.2)).returns .ok
    else (terminateIfBusy i .portWedged r.2).returns .portWedgedNow

/-- `READ` (R121). -/
def execRead (idx : BitVec 8) (buf len cb : Word) (s : State) : Host.Outcome State Fault Refusal :=
  match s.pipeOf? idx.toNat with
  | none => .next (s.returns .invalidArg)
  | some i => .next (startCommon i .rx buf len cb s)

/-- `WRITE` (R122). -/
def execWrite (idx : BitVec 8) (buf len cb : Word) (s : State) : Host.Outcome State Fault Refusal :=
  match s.pipeOf? idx.toNat with
  | none => .next (s.returns .invalidArg)
  | some i => .next (startCommon i .tx buf len cb s)

/-- `STOP` (R131). -/
def execStop (idx : BitVec 8) (s : State) : Host.Outcome State Fault Refusal :=
  match s.pipeOf? idx.toNat with
  | none => .next (s.returns .invalidArg)
  | some i => .next ((terminateIfBusy i .stopped s).returns .ok)

/-- The handler `H_BRDY(i)` (R124). -/
def handleBrdy (i : PipeId) (s : State) : State :=
  let d := s.route i
  if ((s.pipe i).slot d).state ≠ .armed then s
  else
    let t := s.modPipe i fun q => { q with ignoreCnt := 0 }
    match d with
    | .tx => writeChunk i t
    | .rx => readChunk i t

/-- Below the ceiling: the fixed delay, and the buffer is armed again (R127, R129). -/
def retryNotReady (i : PipeId) (s : State) : State :=
  (delay s.cfg.nrdyRetryDelay s).modPipe i fun q => { q with pid := .buf }

/-- The handler `H_NRDY(i)` (R127). -/
def handleNrdy (i : PipeId) (s : State) : State :=
  if ((s.pipe i).slot (s.route i)).state = .idle then s
  else if (s.pipe i).pid = .stall then terminateAll i .stall s
  else if (s.pipe i).ttype = .isochronous then terminateAll i .notReadyExceeded s
  else
    let t := s.modPipe i fun q => { q with ignoreCnt := q.ignoreCnt + 1 }
    if s.cfg.nrdyCeiling ≤ (t.pipe i).ignoreCnt then terminateAll i .notReadyExceeded t else retryNotReady i t

/-- The handler `H_BEMP(i)` (R132): nothing beyond the dispatcher's clear of the status bit. -/
def handleBemp (_i : PipeId) (s : State) : State := s

/-- `H_BRDY` (R124), as the dispatcher calls it. A pipe number that does not exist never occurs (R83). -/
def execHBrdy (p : BitVec 5) (s : State) : Host.Outcome State Fault Refusal :=
  match s.pipeOf? p.toNat with
  | none => .refused .reservedSource
  | some i => .next (handleBrdy i s)

/-- `H_BEMP` (R132). -/
def execHBemp (p : BitVec 5) (s : State) : Host.Outcome State Fault Refusal :=
  match s.pipeOf? p.toNat with
  | none => .refused .reservedSource
  | some i => .next (handleBemp i s)

/-- `H_NRDY` (R127). -/
def execHNrdy (p : BitVec 5) (s : State) : Host.Outcome State Fault Refusal :=
  match s.pipeOf? p.toNat with
  | none => .refused .reservedSource
  | some i => .next (handleNrdy i s)

end Sys2Proof.Machine
end

