-- ==== Sys2Proof/Machine/PeripheralRequest.lean ====
section
/-! DEFINITION. Peripheral-side request state machine (44_peripheral_request.md): `CTRL_ACK`, `CTRL_STALL`, `CTRL_DATA`
and the handlers `H_SETUP`, `H_STSDONE`, `H_SEQERR`. The family exists only when `MODE = Peripheral` (R88); the end of the
data stage is `ctrlDataDone` of Ops.lean (R198). -/

namespace Sys2Proof.Machine

/-- A `CTRL_*` command: `InvalidState` in the wrong mode (R88). -/
def ctrlCommand (s t : State) : Host.Outcome State Fault Refusal :=
  .next (if s.cfg.mode ≠ .peripheral then s.returns .invalidState else t)

/-- A control handler: the family exists only in peripheral mode (R88). -/
def ctrlHandler (s t : State) : Host.Outcome State Fault Refusal :=
  if s.cfg.mode ≠ .peripheral then .refused .wrongMode else .next t

/-- The handler `H_SETUP` (R191). -/
def handleSetup (s : State) : State :=
  let t := ((terminateIfBusy 0 .stopped s).modPipe 0 fun q => { q with pid := .nak }).modCtrl fun c =>
    { c with statusEn := false, dataCb := 0, state := .cSetupReceived }
  t.addSetup t.ctrl.setup

/-- `CTRL_ACK` (R193). -/
def ctrlAck (s : State) : State :=
  if s.ctrl.state ≠ .cSetupReceived ∨ s.ctrl.wlen ≠ 0 then s.returns .invalidState
  else
    ((s.modPipe 0 fun q => { q with pid := .buf }).modCtrl fun c =>
      { c with statusEn := true, state := .cStatusStage }).returns .ok

/-- `CTRL_ACK` (R193). -/
def execCtrlAck (s : State) : Host.Outcome State Fault Refusal := ctrlCommand s (ctrlAck s)

/-- The stall that ends a request (R194, R197). -/
def stallControl (res : Result) (s : State) : State :=
  ((terminateIfBusy 0 res s).modPipe 0 fun q => { q with pid := .stall }).modCtrl fun c =>
    { c with statusEn := false, state := .cStalled }

/-- `CTRL_STALL` (R194). -/
def execCtrlStall (s : State) : Host.Outcome State Fault Refusal :=
  ctrlCommand s ((stallControl .stopped s).returns .ok)

/-- What `CTRL_DATA` does with the answer of `StartCommon` (R195). -/
def ctrlDataResult (cb : Word) (t : State) : State :=
  if t.ret ≠ some .ok then t else t.modCtrl fun c => { c with dataCb := cb, state := .cDataStage }

/-- `CTRL_DATA` (R195). -/
def ctrlData (buf len cb : Word) (s : State) : State :=
  if s.ctrl.state ≠ .cSetupReceived ∨ s.ctrl.wlen = 0 then s.returns .invalidState
  else ctrlDataResult cb (startCommon 0 s.ctrl.dataDir buf len cb s)

/-- `CTRL_DATA` (R195). -/
def execCtrlData (buf len cb : Word) (s : State) : Host.Outcome State Fault Refusal :=
  ctrlCommand s (ctrlData buf len cb s)

/-- The handler `H_STSDONE` (R196). -/
def handleStsdone (s : State) : State :=
  if s.ctrl.state = .cStatusStage then
    (s.modPipe 0 fun q => { q with pid := .nak }).modCtrl fun c => { c with state := .cIdle, statusEn := false }
  else s

/-- The handler `H_SEQERR` (R197). -/
def handleSeqerr (s : State) : State := stallControl .stall s

/-- `H_SETUP` (R191). -/
def execHSetup (s : State) : Host.Outcome State Fault Refusal := ctrlHandler s (handleSetup s)

/-- `H_STSDONE` (R196). -/
def execHStsdone (s : State) : Host.Outcome State Fault Refusal := ctrlHandler s (handleStsdone s)

/-- `H_SEQERR` (R197). -/
def execHSeqerr (s : State) : Host.Outcome State Fault Refusal := ctrlHandler s (handleSeqerr s)

end Sys2Proof.Machine
end

