-- ==== Sys2Proof/Machine/Dispatcher.lean ====
section
/-! DEFINITION. Interrupt dispatcher (45_interrupt_dispatcher.md): `USB_IRQ`. -/

namespace Sys2Proof.Machine

/-- `Handler(r, b)` (R211), by source. -/
def handler (x : Source) (s : State) : State :=
  match x with
  | .brdy i => handleBrdy i s
  | .bemp i => handleBemp i s
  | .nrdy i => handleNrdy i s
  | .attach k => handleAttach k s
  | .detach k => handleDetach k s
  | .linechg k => handleLinechg k s
  | .setup => handleSetup s
  | .stsdone => handleStsdone s
  | .seqerr => handleSeqerr s

/-- Deliver one source (R211, R213): an edge-sensitive source is cleared before its handler runs, a level-sensitive one
after. -/
def deliver (s : State) (x : Source) : State :=
  match s.sens x.reg with
  | .edge => handler x (s.setSts x false)
  | .level => (handler x s).setSts x false

/-- One register (R211): the bitmap is read once, when its turn comes, and its bits are handled in ascending order. -/
def dispatchReg (s : State) (r : EvtReg) : State := (r.sources.filter s.pending).foldl deliver s

/-- The body of `USB_IRQ` (R211). -/
def dispatch (s : State) : State := allRegs.foldl dispatchReg s

/-- `USB_IRQ` (R211): the step exists only while the interrupt request is asserted. -/
def execUsbIrq (s : State) : Host.Outcome State Fault Refusal :=
  if s.irqAsserted then .next (dispatch s) else .refused .notEnabled

end Sys2Proof.Machine
end

