-- ==== Sys2Proof/Machine/DmaTransfer.lean ====
section
/-! DEFINITION. DMA transfer controller (42_dma_transfer.md): `DMA_START` and `DMA_IRQ`. The engine's own step is
`DMA_BLOCK` (Environment.lean). -/

namespace Sys2Proof.Machine

/-- `Delegates(i, l, p)` (R152): the whole request runs on the CPU path. -/
def State.delegates (s : State) (i : PipeId) (len : Nat) (p : DPort) : Bool :=
  decide (s.cfg.strategy = .cpuOnly) || decide (len < s.blockSize p) || decide ((s.pipe i).ttype ≠ .bulk) ||
  decide (s.blockSize p % (s.pipe i).mps ≠ 0)

/-- The slot of a request accepted on the DMA path (R151). -/
def dmaSlot (buf len cb : Word) (p : DPort) : Slot := ⟨.dmaArmed, buf, len, len, cb, .dma p, false⟩

/-- What accepting a DMA-path request makes of the pipe's record (R151). -/
def Pipe.armDma (d : Dir) (buf len cb : Word) (p : DPort) (q : Pipe) : Pipe :=
  { q.setSlot d (dmaSlot buf len cb p) with
    trncnt := BitVec.ofNat 32 (ceilDiv len.toNat q.mps)
    ignoreCnt := 0
    rxFifo := if d = .rx then none else q.rxFifo
    pid := .buf }

/-- The descriptor of a request of `len` bytes in blocks of `b` (R151). -/
def dmaChan (i : PipeId) (d : Dir) (buf : Word) (len b : Nat) (widths : List Nat) : Chan where
  bound := true
  pipe := i
  dirn := d
  addr := buf
  width := elementWidth widths (len / b * b)
  blockSize := b
  blockCount := len / b
  crb := len / b
  lastLen := b
  armed := true
  done := false
  size := BitVec.ofNat 32 (len / b * b)

/-- Accepting a request on the DMA path (R151), after the checks and the port. -/
def armDma (i : PipeId) (d : Dir) (buf len cb : Word) (p : DPort) (s : State) : State :=
  let s1 := clearStatus i (s.modPipe i (Pipe.armDma d buf len cb p))
  let s2 := s1.modChan p fun _ => dmaChan i d buf len.toNat (s1.blockSize p) s1.cfg.dmaWidths
  (s2.setEnb (.nrdy i) true).modPort p.fport fun q => { q with dreq := true }

/-- `DMA_START` on a pipe and a DMA-capable port that exist (R151). -/
def dmaStart (i : PipeId) (buf len : Word) (p : DPort) (cb : Word) (s : State) : State :=
  if (s.pipe i).configured = false then s.returns .invalidState
  else if (s.pipe i).wedged then s.returns .portWedgedNow
  else if bufferWraps buf len then s.returns .invalidArg
  else if ((s.pipe i).slot (s.xdir i)).state ≠ .idle then s.returns .queueOverrun
  else if s.delegates i len.toNat p then startCommon i (s.xdir i) buf len cb s
  else if (s.chan p).bound then s.returns .busy
  else
    let r := acquirePort i p.fport s
    if r.1 then (armDma i (s.xdir i) buf len cb p r.2).returns .ok else r.2.returns .portWedgedNow

/-- `DMA_START` (R151): pipe 0 and `PORT_C` are rejected. -/
def execDmaStart (idx : BitVec 8) (buf len : Word) (f : FPort) (cb : Word) (s : State) :
    Host.Outcome State Fault Refusal :=
  match s.pipeOf? idx.toNat, f.dma? with
  | some i, some p => .next (if i = 0 then s.returns .invalidArg else dmaStart i buf len p cb s)
  | none, _ => .next (s.returns .invalidArg)
  | some _, none => .next (s.returns .invalidArg)

/-- The bytes the engine moved (R155). -/
def Chan.moved (c : Chan) : Nat :=
  if c.crb = c.blockCount then 0 else (c.blockCount - c.crb - 1) * c.blockSize + c.lastLen

/-- Whether the block-aligned prefix is done (R155). -/
def Chan.full (c : Chan) : Bool := decide (c.crb = 0) && decide (c.lastLen = c.blockSize)

/-- "stale interrupt, ignored" (R155). -/
def State.dmaStale (s : State) (p : DPort) : Bool :=
  let c := s.chan p
  let x := (s.pipe c.pipe).slot c.dirn
  !c.bound || decide (x.state ≠ .dmaArmed) || decide (x.path ≠ .dma p)

/-- The accounting of `DMA_IRQ` (R155): the moved bytes leave the slot, the binding is destroyed. -/
def dmaAccount (p : DPort) (s : State) : State :=
  let c := s.chan p
  ((advanceSlot c.pipe c.dirn c.moved s).modChan p fun x => { x with armed := false, bound := false }).modPort p.fport
    fun q => { q with dreq := false }

/-- Case (a) of `DMA_IRQ` (R155): the fractional remainder becomes a one-shot CPU-path transfer. -/
def dmaRemainder (i : PipeId) (d : Dir) (s : State) : State :=
  let r := acquirePort i .c s
  if r.1 then
    pushFirst i d ((r.2.modPipe i fun q =>
      q.setSlot d { q.slot d with state := .armed, path := .cpu, oneShot := true }).setEnb (.brdy i) true)
  else terminateAll i .portWedged r.2

/-- Case (b) of `DMA_IRQ` (R155): nothing remains; a write ends with a zero-length packet. -/
def dmaEnd (p : DPort) (i : PipeId) (d : Dir) (s : State) : State :=
  match d with
  | .rx => complete i .rx .exact s
  | .tx =>
    let r := acquirePort i p.fport s
    if r.1 then complete i .tx .exact (commit p.fport i true r.2) else terminateAll i .portWedged r.2

/-- `DMA_IRQ` on a binding that is not stale (R155), for the channel record `c` read at entry. -/
def dmaComplete (p : DPort) (c : Chan) (s : State) : State :=
  let t := dmaAccount p s
  if c.full = false then complete c.pipe .rx .shortPacket t
  else if 0 < ((t.pipe c.pipe).slot c.dirn).remaining.toNat then dmaRemainder c.pipe c.dirn t
  else dmaEnd p c.pipe c.dirn t

/-- The transition of `DMA_IRQ` while the DMA-complete interrupt of `p` is pending (R155). -/
def dmaIrq (p : DPort) (s : State) : Host.Outcome State Fault Refusal :=
  let c := s.chan p
  let t := s.modChan p fun x => { x with done := false }
  if t.dmaStale p then .next t
  else if c.dirn = .tx ∧ c.full = false then .fault (.dmaIncompleteWrite p)
  else .next (dmaComplete p c t)

/-- `DMA_IRQ` (R155): no entry for `PORT_C` (R87), none without block DMA (R88), and only while the interrupt is
pending. -/
def execDmaIrq (f : FPort) (s : State) : Host.Outcome State Fault Refusal :=
  match f.dma? with
  | none => .refused .notAStep
  | some p =>
    if s.cfg.strategy = .cpuOnly then .refused .wrongMode
    else if (s.chan p).done = false then .refused .notEnabled
    else dmaIrq p s

end Sys2Proof.Machine
end

