-- ==== Sys2Proof/Machine/Environment.lean ====
section
/-! DEFINITION. Environment steps (46_environment.md): the `HW_*` steps of agent `Hw` and `DMA_BLOCK` of agent `Dma`.
Every `Hw` step may also change the toggle bits (R244). -/

namespace Sys2Proof.Machine

/-- A `Hw` step on a pipe: a bad pipe number is not a step (R87), and the step exists only while it is enabled. -/
def hwPipeStep (idx : BitVec 8) (s : State) (enabled : PipeId → Bool) (effect : PipeId → State) :
    Host.Outcome State Fault Refusal :=
  match s.pipeOf? idx.toNat with
  | none => .refused .notAStep
  | some i => if enabled i then .next (hwToggles (effect i)) else .refused .notEnabled

/-- A `Hw` step on a physical port: a bad port number is not a step (R87), nor is the step in peripheral mode (R88);
it is always enabled (R236). -/
def hwLinkStep (idx : BitVec 8) (s : State) (effect : PortId → State) : Host.Outcome State Fault Refusal :=
  match s.portOf? idx.toNat with
  | none => .refused .notAStep
  | some k => if s.cfg.mode ≠ .host then .refused .wrongMode else .next (hwToggles (effect k))

/-- When a received packet can arrive (R231). -/
def State.canReceive (s : State) (i : PipeId) (n : Nat) : Bool :=
  (s.pipe i).configured && decide (s.route i = .rx) && decide ((s.pipe i).slotRx.state = .armed) &&
  decide ((s.pipe i).pid = .buf) && (s.pipe i).rxFifo.isNone && decide (n ≤ (s.pipe i).mps)

/-- `HW_RX_PACKET` (R231). A byte list whose length `w2` cannot hold has no record (R81). -/
def execHwRxPacket (idx : BitVec 8) (data : List Byte) (s : State) : Host.Outcome State Fault Refusal :=
  if 2 ^ 32 ≤ data.length then .refused .notAStep
  else
    hwPipeStep idx s (fun i => s.canReceive i data.length) fun i =>
      (s.modPipe i fun q => { q with rxFifo := some data }).setSts (.brdy i) true

/-- When a transmitting pipe's buffer can become free (R232). -/
def State.canTransmit (s : State) (i : PipeId) : Bool :=
  (s.pipe i).configured && decide (s.route i = .tx) && decide ((s.pipe i).slotTx.state = .armed) &&
  decide ((s.pipe i).pid = .buf) && !s.sts (.brdy i)

/-- `HW_TX_READY` (R232). -/
def execHwTxReady (idx : BitVec 8) (s : State) : Host.Outcome State Fault Refusal :=
  hwPipeStep idx s s.canTransmit fun i => s.setSts (.brdy i) true

/-- When a response other than data can arrive on a pipe (R233). -/
def State.canRespond (s : State) (i : PipeId) : Bool :=
  (s.pipe i).configured && decide (((s.pipe i).slot (s.route i)).state ≠ .idle) && decide ((s.pipe i).pid = .buf)

/-- `HW_NOT_READY` (R233). -/
def execHwNotReady (idx : BitVec 8) (s : State) : Host.Outcome State Fault Refusal :=
  hwPipeStep idx s s.canRespond fun i => s.setSts (.nrdy i) true

/-- `HW_STALL` (R234). -/
def execHwStall (idx : BitVec 8) (s : State) : Host.Outcome State Fault Refusal :=
  hwPipeStep idx s s.canRespond fun i => (s.modPipe i fun q => { q with pid := .stall }).setSts (.nrdy i) true

/-- `HW_BUF_EMPTY` (R235). -/
def execHwBufEmpty (idx : BitVec 8) (s : State) : Host.Outcome State Fault Refusal :=
  hwPipeStep idx s (fun i => (s.pipe i).configured) fun i => s.setSts (.bemp i) true

/-- `HW_ATTACH` (R236). -/
def execHwAttach (idx : BitVec 8) (s : State) : Host.Outcome State Fault Refusal :=
  hwLinkStep idx s fun k => s.setSts (.attach k) true

/-- `HW_DETACH` (R237). -/
def execHwDetach (idx : BitVec 8) (s : State) : Host.Outcome State Fault Refusal :=
  hwLinkStep idx s fun k => s.setSts (.detach k) true

/-- `HW_LINECHG` (R238). -/
def execHwLinechg (idx : BitVec 8) (s : State) : Host.Outcome State Fault Refusal :=
  hwLinkStep idx s fun k => s.setSts (.linechg k) true

/-- `HW_SETUP` (R239): a byte list that is not eight bytes long is no setup packet. -/
def execHwSetup (data : List Byte) (s : State) : Host.Outcome State Fault Refusal :=
  match setupOf? data with
  | none => .refused .notAStep
  | some v =>
    if s.cfg.mode ≠ .peripheral then .refused .wrongMode
    else .next (hwToggles ((s.modCtrl fun c => { c with setup := v }).setSts .setup true))

/-- `HW_STATUS_DONE` (R240). -/
def execHwStatusDone (s : State) : Host.Outcome State Fault Refusal :=
  if s.cfg.mode ≠ .peripheral then .refused .wrongMode
  else if s.ctrl.statusEn = false then .refused .notEnabled
  else .next (hwToggles (s.setSts .stsdone true))

/-- `HW_SEQ_ERR` (R241). -/
def execHwSeqErr (s : State) : Host.Outcome State Fault Refusal :=
  if s.cfg.mode ≠ .peripheral then .refused .wrongMode else .next (hwToggles (s.setSts .seqerr true))

/-! ### The block-DMA engine -/

/-- When the engine can move a block (R242). -/
def State.canMoveBlock (s : State) (p : DPort) : Bool :=
  let c := s.chan p
  c.bound && c.armed && !c.done && decide (0 < c.crb) && (s.port p.fport).dreq &&
  decide ((s.port p.fport).owner = some c.pipe) && decide ((s.pipe c.pipe).pid = .buf)

/-- The full packets a block of a write is sent in (R242). -/
def blockPackets (i : PipeId) (m : Nat) (bs : List Byte) (b : Nat) : List TxEntry :=
  (List.range (b / m)).map fun j => TxEntry.mk i ((bs.drop (j * m)).take m) false

/-- The channel after the engine moved `n` bytes of a block (R242): the transfer is over when no block remains or the
block was short. -/
def Chan.moveBlock (n : Nat) (c : Chan) : Chan :=
  let ended := decide (c.crb - 1 = 0) || decide (n < c.blockSize)
  { c with
    addr := c.addr + BitVec.ofNat 32 n
    crb := c.crb - 1
    lastLen := n
    armed := if ended then false else c.armed
    done := if ended then true else c.done }

/-- The effect of `DMA_BLOCK` (R242). -/
def moveBlock (p : DPort) (s : State) : State :=
  let c := s.chan p
  match c.dirn with
  | .tx =>
    let bs := memRead s.mem c.addr c.blockSize
    (s.addTx (blockPackets c.pipe (s.pipe c.pipe).mps bs c.blockSize)).modChan p (Chan.moveBlock c.blockSize)
  | .rx =>
    let r := drawRxBlock c.blockSize s
    (r.2.setMem (memWrite r.2.mem c.addr r.1)).modChan p (Chan.moveBlock r.1.length)

/-- `DMA_BLOCK` (R242): no engine for `PORT_C` (R87), none without block DMA (R88). -/
def execDmaBlock (f : FPort) (s : State) : Host.Outcome State Fault Refusal :=
  match f.dma? with
  | none => .refused .notAStep
  | some p =>
    if s.cfg.strategy = .cpuOnly then .refused .wrongMode
    else if s.canMoveBlock p then .next (moveBlock p s)
    else .refused .notEnabled

end Sys2Proof.Machine
end

