-- ==== Sys2Proof/Machine/Dispatch.lean ====
section
/-! DEFINITION. One arm per operation of the opcode table. -/

namespace Sys2Proof.Machine

def exec (i : Instr) (s : State) : Host.Outcome State Fault Refusal :=
  match i with
  -- CMD
  | .configurePipe idx t d m a => Sys2Proof.Machine.execConfigurePipe idx t d m a s
  | .releasePipe idx => Sys2Proof.Machine.execReleasePipe idx s
  | .acquirePort idx f => Sys2Proof.Machine.execAcquirePort idx f s
  | .read idx b l c => Sys2Proof.Machine.execRead idx b l c s
  | .write idx b l c => Sys2Proof.Machine.execWrite idx b l c s
  | .stop idx => Sys2Proof.Machine.execStop idx s
  | .dmaStart idx b l f c => Sys2Proof.Machine.execDmaStart idx b l f c s
  | .linkAttachProcess idx => Sys2Proof.Machine.execLinkAttachProcess idx s
  | .linkBusReset idx => Sys2Proof.Machine.execLinkBusReset idx s
  | .linkSuspend idx => Sys2Proof.Machine.execLinkSuspend idx s
  | .linkResume idx => Sys2Proof.Machine.execLinkResume idx s
  | .linkSetAddress idx a => Sys2Proof.Machine.execLinkSetAddress idx a s
  | .ctrlAck => Sys2Proof.Machine.execCtrlAck s
  | .ctrlStall => Sys2Proof.Machine.execCtrlStall s
  | .ctrlData b l c => Sys2Proof.Machine.execCtrlData b l c s
  -- IRQ
  | .usbIrq => Sys2Proof.Machine.execUsbIrq s
  | .dmaIrq f => Sys2Proof.Machine.execDmaIrq f s
  -- ENV
  | .hwRxPacket idx bs => Sys2Proof.Machine.execHwRxPacket idx bs s
  | .hwTxReady idx => Sys2Proof.Machine.execHwTxReady idx s
  | .hwNotReady idx => Sys2Proof.Machine.execHwNotReady idx s
  | .hwStall idx => Sys2Proof.Machine.execHwStall idx s
  | .hwBufEmpty idx => Sys2Proof.Machine.execHwBufEmpty idx s
  | .hwAttach idx => Sys2Proof.Machine.execHwAttach idx s
  | .hwDetach idx => Sys2Proof.Machine.execHwDetach idx s
  | .hwLinechg idx => Sys2Proof.Machine.execHwLinechg idx s
  | .hwSetup bs => Sys2Proof.Machine.execHwSetup bs s
  | .hwStatusDone => Sys2Proof.Machine.execHwStatusDone s
  | .hwSeqErr => Sys2Proof.Machine.execHwSeqErr s
  | .dmaBlock f => Sys2Proof.Machine.execDmaBlock f s
  -- EVT
  | .hBrdy p => Sys2Proof.Machine.execHBrdy p s
  | .hBemp p => Sys2Proof.Machine.execHBemp p s
  | .hNrdy p => Sys2Proof.Machine.execHNrdy p s
  | .hAttach k => Sys2Proof.Machine.execHAttach k s
  | .hDetach k => Sys2Proof.Machine.execHDetach k s
  | .hLinechg k => Sys2Proof.Machine.execHLinechg k s
  | .hSetup => Sys2Proof.Machine.execHSetup s
  | .hStsdone => Sys2Proof.Machine.execHStsdone s
  | .hSeqerr => Sys2Proof.Machine.execHSeqerr s

end Sys2Proof.Machine
end

