-- ==== Sys2Proof/Machine/Fetch.lean ====
section
/-! DEFINITION. Taking the next input and what a step does with the decoder's answer. The block fetches no instructions
(R77): operations arrive as records (R80), which the model holds in its inbox (log entry 1). -/

namespace Sys2Proof.Machine

/-- The next input and the state without it. -/
def nextInput (s : State) : Option (Input × State) :=
  match s.inbox with
  | [] => none
  | x :: rest => some (x, s.setInbox rest)

/-- Which refusal an input without a step gets: a record (R87), or a source id that never occurs (R83). -/
def noStep : Input → Refusal
  | .record _ => .notAStep
  | .source _ => .reservedSource

/-- What a step does with one input (R87): the operation runs; an unknown or defective command returns its status with
no state change; a defective `IRQ` or `ENV` record is no step. -/
def runInput (x : Input) (s : State) : Host.Outcome State Fault Refusal :=
  match decode x with
  | .instr i => exec i s
  | .invalidOp => .next (s.returns .invalidOp)
  | .invalidArg => .next (s.returns .invalidArg)
  | .notAStep => .refused (noStep x)

end Sys2Proof.Machine
end

