-- ==== Sys2Proof/Machine/Step.lean ====
section
/-! DEFINITION. One step: one atomic transition (R7), that of the oldest input of the inbox. With an empty inbox the
block waits (R281): the step leaves the state as it is. -/

namespace Sys2Proof.Machine

/-- One transition. -/
def step (s : State) : Host.Outcome State Fault Refusal :=
  match nextInput s with
  | none => .next s
  | some r => runInput r.1 r.2

/-- `s` with the input of a table word as its next one. -/
def State.withFetchWord (s : State) (nbits w : Nat) : State :=
  s.setInbox (inputOfTableWord nbits w :: s.inbox)

end Sys2Proof.Machine
end

