-- ==== Sys2Proof/Safety.lean ====
section
/-! DEFINITION. What counts as a good state and a safe step, in the terms the statements use: invariants that hold
between transitions (R21, R29, R31, R33 to R36, R41, R109, R180), quiescence (R294), what is outstanding (R28, R251), and
what an operation leaves alone (frames). -/

namespace Sys2Proof

/-! ### Operations as syntax -/

/-- The request an operation submits (R27, R195): its callback identifier and the number of its pipe. -/
def Instr.request? : Instr → Option (Word × Nat)
  | .configurePipe _ _ _ _ _ => none
  | .releasePipe _ => none
  | .acquirePort _ _ => none
  | .read idx _ _ cb => some (cb, idx.toNat)
  | .write idx _ _ cb => some (cb, idx.toNat)
  | .stop _ => none
  | .dmaStart idx _ _ _ cb => some (cb, idx.toNat)
  | .linkAttachProcess _ => none
  | .linkBusReset _ => none
  | .linkSuspend _ => none
  | .linkResume _ => none
  | .linkSetAddress _ _ => none
  | .ctrlAck => none
  | .ctrlStall => none
  | .ctrlData _ _ cb => some (cb, 0)
  | .usbIrq => none
  | .dmaIrq _ => none
  | .hwRxPacket _ _ => none
  | .hwTxReady _ => none
  | .hwNotReady _ => none
  | .hwStall _ => none
  | .hwBufEmpty _ => none
  | .hwAttach _ => none
  | .hwDetach _ => none
  | .hwLinechg _ => none
  | .hwSetup _ => none
  | .hwStatusDone => none
  | .hwSeqErr => none
  | .dmaBlock _ => none
  | .hBrdy _ => none
  | .hBemp _ => none
  | .hNrdy _ => none
  | .hAttach _ => none
  | .hDetach _ => none
  | .hLinechg _ => none
  | .hSetup => none
  | .hStsdone => none
  | .hSeqerr => none

/-- `READ` or `WRITE`, by direction (R121, R122). -/
def Dir.request (d : Dir) (idx : BitVec 8) (buf len cb : Word) : Instr :=
  match d with
  | .rx => .read idx buf len cb
  | .tx => .write idx buf len cb

/-! ### Operations of one mode (R88) -/

/-- The operations and handlers that exist only when `MODE = Host` (R88, 43_host_link.md). -/
def Instr.hostOnly : Instr → Bool
  | .configurePipe _ _ _ _ _ => false
  | .releasePipe _ => false
  | .acquirePort _ _ => false
  | .read _ _ _ _ => false
  | .write _ _ _ _ => false
  | .stop _ => false
  | .dmaStart _ _ _ _ _ => false
  | .linkAttachProcess _ => true
  | .linkBusReset _ => true
  | .linkSuspend _ => true
  | .linkResume _ => true
  | .linkSetAddress _ _ => true
  | .ctrlAck => false
  | .ctrlStall => false
  | .ctrlData _ _ _ => false
  | .usbIrq => false
  | .dmaIrq _ => false
  | .hwRxPacket _ _ => false
  | .hwTxReady _ => false
  | .hwNotReady _ => false
  | .hwStall _ => false
  | .hwBufEmpty _ => false
  | .hwAttach _ => true
  | .hwDetach _ => true
  | .hwLinechg _ => true
  | .hwSetup _ => false
  | .hwStatusDone => false
  | .hwSeqErr => false
  | .dmaBlock _ => false
  | .hBrdy _ => false
  | .hBemp _ => false
  | .hNrdy _ => false
  | .hAttach _ => true
  | .hDetach _ => true
  | .hLinechg _ => true
  | .hSetup => false
  | .hStsdone => false
  | .hSeqerr => false

/-- The operations and handlers that exist only when `MODE = Peripheral` (R88, 44_peripheral_request.md). -/
def Instr.peripheralOnly : Instr → Bool
  | .configurePipe _ _ _ _ _ => false
  | .releasePipe _ => false
  | .acquirePort _ _ => false
  | .read _ _ _ _ => false
  | .write _ _ _ _ => false
  | .stop _ => false
  | .dmaStart _ _ _ _ _ => false
  | .linkAttachProcess _ => false
  | .linkBusReset _ => false
  | .linkSuspend _ => false
  | .linkResume _ => false
  | .linkSetAddress _ _ => false
  | .ctrlAck => true
  | .ctrlStall => true
  | .ctrlData _ _ _ => true
  | .usbIrq => false
  | .dmaIrq _ => false
  | .hwRxPacket _ _ => false
  | .hwTxReady _ => false
  | .hwNotReady _ => false
  | .hwStall _ => false
  | .hwBufEmpty _ => false
  | .hwAttach _ => false
  | .hwDetach _ => false
  | .hwLinechg _ => false
  | .hwSetup _ => true
  | .hwStatusDone => true
  | .hwSeqErr => true
  | .dmaBlock _ => false
  | .hBrdy _ => false
  | .hBemp _ => false
  | .hNrdy _ => false
  | .hAttach _ => false
  | .hDetach _ => false
  | .hLinechg _ => false
  | .hSetup => true
  | .hStsdone => true
  | .hSeqerr => true

/-! ### Defective records (R87) -/

/-- The operation codes of R82. -/
def tableOps : List Nat :=
  [0x01, 0x02, 0x03, 0x10, 0x11, 0x12, 0x13, 0x20, 0x21, 0x22, 0x23, 0x24, 0x30, 0x31, 0x32, 0x40, 0x41] ++
  [0x80, 0x81, 0x82, 0x83, 0x84, 0x88, 0x89, 0x8A, 0x90, 0x91, 0x92, 0xA0]

/-- The pipe operations of R82. -/
def pipeOps : List Nat := [0x01, 0x02, 0x03, 0x10, 0x11, 0x12, 0x13, 0x80, 0x81, 0x82, 0x83, 0x84]

/-- The link operations of R82. -/
def linkOps : List Nat := [0x20, 0x21, 0x22, 0x23, 0x24, 0x88, 0x89, 0x8A]

/-- The operations of R82 with a FIFO port operand. -/
def fportOps : List Nat := [0x03, 0x13, 0x41, 0xA0]

/-- The operations of R82 with a buffer, a length and a callback. -/
def transferOps : List Nat := [0x10, 0x11, 0x13, 0x32]

/-- The operations of R82 that carry data. -/
def dataOps : List Nat := [0x80, 0x90]

/-- A non-zero field that the operation with code `n` does not use (R81, R82, R87). -/
def Record.UnusedSet (r : Record) (n : Nat) : Prop :=
  (r.idx ≠ 0 ∧ n ∉ pipeOps ∧ n ∉ linkOps) ∨ (r.fport ≠ 0 ∧ n ∉ fportOps) ∨ (r.ttype ≠ 0 ∧ n ≠ 0x01) ∨
  (r.dir ≠ 0 ∧ n ≠ 0x01) ∨ (r.w1 ≠ 0 ∧ n ∉ transferOps) ∨ (r.w2 ≠ 0 ∧ n ∉ transferOps ∧ n ∉ dataOps) ∨
  (r.w3 ≠ 0 ∧ n ∉ transferOps) ∨ (r.mps ≠ 0 ∧ n ≠ 0x01) ∨ (r.devaddr ≠ 0 ∧ n ≠ 0x01 ∧ n ≠ 0x24) ∨
  (r.dav ≠ 0 ∧ n ≠ 0x01)

/-- The defects R87 lists, of a record whose operation code is in R82. -/
def Record.Defective (c : Cfg) (r : Record) : Prop :=
  r.rsv0 ≠ 0 ∨ r.rsv4 ≠ 0 ∨ r.UnusedSet r.op.toNat ∨ (r.op.toNat ∈ fportOps ∧ r.fport = 3) ∨
  (r.op.toNat = 0x01 ∧ (r.mps.toNat = 0 ∨ 1024 < r.mps.toNat)) ∨
  (r.op.toNat ∈ pipeOps ∧ c.numPipes ≤ r.idx.toNat) ∨ (r.op.toNat ∈ linkOps ∧ c.numPhysPorts ≤ r.idx.toNat)

end Sys2Proof

namespace Sys2Proof.Machine

/-! ### Which pipe a source belongs to -/

/-- The pipe of a per-pipe source (R83). -/
def Source.pipe? : Source → Option PipeId
  | .brdy i => some i
  | .bemp i => some i
  | .nrdy i => some i
  | .attach _ => none
  | .detach _ => none
  | .linechg _ => none
  | .setup => none
  | .stsdone => none
  | .seqerr => none

/-- The physical port of a link source (R83). -/
def Source.port? : Source → Option PortId
  | .brdy _ => none
  | .bemp _ => none
  | .nrdy _ => none
  | .attach k => some k
  | .detach k => some k
  | .linechg k => some k
  | .setup => none
  | .stsdone => none
  | .seqerr => none

/-! ### Invariants between transitions -/

/-- Pipe records (R20, R21, R25, R109): pipe 0 is configured; only existing pipes are; an unconfigured pipe is not busy, has its three enable bits 0,
`pid = NAK` and `trncnt = 0`; a packet size is 1..1024; nothing enables buffer-empty (R257). -/
structure PipeInv (s : State) : Prop where
  zero : (s.pipe 0).configured = true
  exist : ∀ i : PipeId, (s.pipe i).configured = true → i.val < s.cfg.numPipes
  free : ∀ i, (s.pipe i).configured = false →
    s.busy i = false ∧ s.enb (.brdy i) = false ∧ s.enb (.nrdy i) = false ∧ s.enb (.bemp i) = false ∧
    (s.pipe i).pid = .nak ∧ (s.pipe i).trncnt = 0
  mps : ∀ i, 1 ≤ (s.pipe i).mps ∧ (s.pipe i).mps ≤ 1024
  bemp : ∀ i, s.enb (.bemp i) = false

/-- FIFO ports (R31, R33, R66): "no pipe is the owner of two ports at once"; nothing is staged between transitions; the
DMA request of `PORT_C` is off, and a DMA-capable port's is on only while its channel is bound. -/
structure PortInv (s : State) : Prop where
  owner : ∀ p q i, (s.port p).owner = some i → (s.port q).owner = some i → p = q
  stage : ∀ p, (s.port p).stage = []
  dreqC : (s.port .c).dreq = false
  dreq : ∀ p : DPort, (s.port p.fport).dreq = true → (s.chan p).bound = true

/-- DMA channels (R34, R35, R242): an unbound channel is neither armed nor done; a write moves whole blocks only, and is
done only when none remains. -/
structure ChanInv (s : State) : Prop where
  unbound : ∀ p, (s.chan p).bound = false → (s.chan p).armed = false ∧ (s.chan p).done = false
  whole : ∀ p, (s.chan p).bound = true → (s.chan p).dirn = .tx → (s.chan p).lastLen = (s.chan p).blockSize
  ended : ∀ p, (s.chan p).bound = true → (s.chan p).dirn = .tx → (s.chan p).done = true → (s.chan p).crb = 0

/-- The enable bits of port `k` are those of its link state (R41). -/
def State.Gated (s : State) (k : PortId) : Prop :=
  (s.enb (.attach k), s.enb (.detach k), s.enb (.linechg k)) = gateBits (s.link k).state

/-- R180 for one link record, and no signalling between transitions. -/
structure Link.Good (l : Link) : Prop where
  settled : l.state ≠ .resetting ∧ l.state ≠ .resuming
  detached : (l.state = .detached ∨ l.state = .attachDetecting) ↔ l.conn = .cDetached
  low : l.state = .lowSpeedAttached → l.conn = .cLowSpeed
  full : l.state = .fullSpeedAttached → l.conn = .cFullSpeed
  running : l.state = .active ∨ l.state = .suspended → l.conn = .cLowSpeed ∨ l.conn = .cFullSpeed ∨ l.conn = .cHighSpeed
  suspended : l.suspended = true ↔ l.state = .suspended
  busActive : l.busActive = true ↔ l.state = .active
  negotiating : l.conn ≠ .cHsNegotiating
  quiet : l.resetSig = false ∧ l.resumeSig = false

/-- Link records (R180); in host mode the gating of every existing port (R41), and no other link source enabled (R83,
R88). -/
structure LinkInv (s : State) : Prop where
  good : ∀ k, (s.link k).Good
  gated : s.cfg.mode = .host → ∀ k : PortId, k.val < s.cfg.numPhysPorts → s.Gated k
  absent : ∀ (x : Source) (k : PortId), x.port? = some k → ¬ (s.cfg.mode = .host ∧ k.val < s.cfg.numPhysPorts) →
    s.enb x = false

/-- The control-request record (R38, R191 to R198): the status stage is enabled exactly in `CStatusStage`; the control
enable bits stay as reset leaves them (R257). -/
structure CtrlInv (s : State) : Prop where
  statusEn : s.ctrl.statusEn = true ↔ s.ctrl.state = .cStatusStage
  enabled : ∀ x, x.reg = .ctrl → s.enb x = decide (s.cfg.mode = .peripheral)

/-- The invariants together, with memory in its canonical form. -/
structure Inv (s : State) : Prop where
  pipes : PipeInv s
  ports : PortInv s
  chans : ChanInv s
  links : LinkInv s
  ctrl : CtrlInv s
  mem : Memory.wf s.mem = true

/-- A quiescent state (R294). -/
def Quiescent (s : State) : Prop :=
  (∀ i, s.busy i = false) ∧ (∀ p, (s.chan p).bound = false) ∧ s.irqAsserted = false ∧ (∀ p, (s.chan p).done = false)

/-- A step that does not fault (R256). -/
def SafeStep (s : State) : Prop := ∀ f, step s ≠ .fault f

/-! ### Outstanding requests -/

/-- The request that slot `d` of pipe `i` holds, if it is outstanding (R28): its callback identifier and its pipe. -/
def Pipe.pending (i : PipeId) (d : Dir) (q : Pipe) : List (Word × PipeId) :=
  if (q.slot d).state = .idle then [] else [((q.slot d).cb, i)]

/-- Every accepted request that has ended, then every one that is outstanding (R251). -/
def State.ledger (s : State) : List (Word × PipeId) :=
  (s.cbLog.map fun e => (e.cb, e.pipe)) ++
  allPipes.flatMap fun i => (s.pipe i).pending i .rx ++ (s.pipe i).pending i .tx

/-! ### Sources as handlers, and a run of the dispatcher (R83, R211) -/

/-- The handler of a source as an operation (R83). -/
def Source.instr : Source → Instr
  | .brdy i => .hBrdy (BitVec.ofNat 5 i.val)
  | .bemp i => .hBemp (BitVec.ofNat 5 i.val)
  | .nrdy i => .hNrdy (BitVec.ofNat 5 i.val)
  | .attach k => .hAttach (BitVec.ofNat 3 k.val)
  | .detach k => .hDetach (BitVec.ofNat 3 k.val)
  | .linechg k => .hLinechg (BitVec.ofNat 3 k.val)
  | .setup => .hSetup
  | .stsdone => .hStsdone
  | .seqerr => .hSeqerr

/-- `Deliveries s xs t`: from `s` the handlers of the sources `xs` run in that order and leave `t`; an edge-sensitive
source is cleared before its handler, a level-sensitive one after (R211, R213). -/
inductive Deliveries : State → List Source → State → Prop
  | none (s : State) : Deliveries s [] s
  | edge {s t u : State} {x : Source} {xs : List Source} (hs : s.sens x.reg = .edge)
      (hx : exec x.instr (s.setSts x false) = .next t) (hd : Deliveries t xs u) : Deliveries s (x :: xs) u
  | level {s t u : State} {x : Source} {xs : List Source} (hs : s.sens x.reg = .level)
      (hx : exec x.instr s = .next t) (hd : Deliveries (t.setSts x false) xs u) : Deliveries s (x :: xs) u

/-- The sources of a register that are pending and enabled, in ascending bit number: the bitmap `bm` of R211. -/
def State.bitmap (s : State) (r : EvtReg) : List Source := r.sources.filter s.pending

/-! ### Runs -/

/-- `n` times the same operation, as long as it answers a next state. -/
def repeatExec (i : Instr) : Nat → State → Host.Outcome State Fault Refusal
  | 0, s => .next s
  | n + 1, s =>
    match exec i s with
    | .next t => repeatExec i n t
    | .fault f => .fault f
    | .refused r => .refused r

/-- Packets arrive one by one on a pipe, each followed by the buffer-ready handler. -/
def receive (idx : BitVec 8) (p : BitVec 5) : List (List Byte) → State → Host.Outcome State Fault Refusal
  | [], s => .next s
  | bs :: rest, s =>
    match exec (.hwRxPacket idx bs) s with
    | .next t =>
      match exec (.hBrdy p) t with
      | .next u => receive idx p rest u
      | .fault f => .fault f
      | .refused r => .refused r
    | .fault f => .fault f
    | .refused r => .refused r

/-- The packets of a whole write of `bs` on pipe `i` with packet size `m` (R125): full packets, then the rest as a short
packet, of length zero after an exact multiple. -/
def writePackets (i : PipeId) (m : Nat) (bs : List Byte) : List TxEntry :=
  ((List.range (bs.length / m)).map fun j => TxEntry.mk i ((bs.drop (j * m)).take m) false) ++
  [⟨i, bs.drop (bs.length / m * m), true⟩]

/-- The next `n` line-state readings (R172, R243). -/
def lineReadings : Nat → State → List LineState
  | 0, _ => []
  | n + 1, s => (drawLineState s).1 :: lineReadings n (drawLineState s).2

/-- The next `n` handshake readings under the attach-time speed `att` (R173, R243). -/
def handshakeReadings (att : Speed) : Nat → State → List Handshake
  | 0, _ => []
  | n + 1, s => (drawHandshake att s).1 :: handshakeReadings att n (drawHandshake att s).2

/-! ### Outcomes and logs -/

/-- The next state of an outcome through `f`; a stop stays as it is. -/
def mapNext (f : State → State) : Host.Outcome State Fault Refusal → Host.Outcome State Fault Refusal
  | .next s => .next (f s)
  | .fault r => .fault r
  | .refused r => .refused r

/-- What the six logs held earlier (R42 to R46). -/
structure Logs where
  tx : List TxEntry
  fifo : List FifoEntry
  ev : List EvEntry
  time : List TimeEntry
  cb : List CbEntry
  setup : List (Vector Byte 8)
  deriving DecidableEq, Repr

/-- The same state with earlier log entries before the present ones. -/
def State.withEarlier (s : State) (l : Logs) : State :=
  { s with
    txLog := l.tx ++ s.txLog
    fifoLog := l.fifo ++ s.fifoLog
    evLog := l.ev ++ s.evLog
    timeLog := l.time ++ s.timeLog
    cbLog := l.cb ++ s.cbLog
    setupLog := l.setup ++ s.setupLog }

/-- Whether an address is one of the `n` addresses from `a` up, wrapping (R62). -/
def inRange (a : Word) (n : Nat) (x : Nat) : Prop := ∃ k, k < n ∧ (a + BitVec.ofNat 32 k).toNat = x

/-! ### Frames -/

/-- Everything but pipe `i`'s record, its sources, the ports, the channels, memory, the transfer logs, the return status
and the draws is as before; for pipe 0 the control record may change too. -/
structure OnlyPipe (i : PipeId) (s t : State) : Prop where
  cfg : t.cfg = s.cfg
  pipes : ∀ j, j ≠ i → t.pipe j = s.pipe j
  links : ∀ k, t.link k = s.link k
  sts : ∀ x : Source, x.pipe? ≠ some i → t.sts x = s.sts x
  enb : ∀ x : Source, x.pipe? ≠ some i → t.enb x = s.enb x
  ctrl : i ≠ 0 → t.ctrl = s.ctrl
  evLog : t.evLog = s.evLog
  setupLog : t.setupLog = s.setupLog
  inbox : t.inbox = s.inbox

/-- Ports, channels, memory, the control record, all transfer logs and the draws are as before. -/
structure SameData (s t : State) : Prop where
  ports : ∀ p, t.port p = s.port p
  chans : ∀ p, t.chan p = s.chan p
  mem : t.mem = s.mem
  ctrl : t.ctrl = s.ctrl
  txLog : t.txLog = s.txLog
  fifoLog : t.fifoLog = s.fifoLog
  timeLog : t.timeLog = s.timeLog
  cbLog : t.cbLog = s.cbLog
  draws : t.draws = s.draws

/-- Everything but link record `k`, the enable bits of port `k`, the notification and delay logs, the return status and
the draws is as before. -/
structure OnlyLink (k : PortId) (s t : State) : Prop where
  cfg : t.cfg = s.cfg
  pipes : ∀ j, t.pipe j = s.pipe j
  ports : ∀ p, t.port p = s.port p
  chans : ∀ p, t.chan p = s.chan p
  links : ∀ j, j ≠ k → t.link j = s.link j
  ctrl : t.ctrl = s.ctrl
  sts : ∀ x, t.sts x = s.sts x
  enb : ∀ x : Source, x.port? ≠ some k → t.enb x = s.enb x
  mem : t.mem = s.mem
  txLog : t.txLog = s.txLog
  fifoLog : t.fifoLog = s.fifoLog
  cbLog : t.cbLog = s.cbLog
  setupLog : t.setupLog = s.setupLog
  inbox : t.inbox = s.inbox

/-- A `Hw` step about pipe `i` (R230): its record may change in `rx_fifo`, in `pid` and, as every pipe's, in `toggle`;
the status bit of one source is set; the draws may be used. Nothing else changes. -/
structure HwStep (x : Source) (s t : State) : Prop where
  cfg : t.cfg = s.cfg
  sts : ∀ y, t.sts y = (s.sts y || decide (y = x))
  enb : ∀ y, t.enb y = s.enb y
  ports : ∀ p, t.port p = s.port p
  chans : ∀ p, t.chan p = s.chan p
  links : ∀ k, t.link k = s.link k
  mem : t.mem = s.mem
  logs : t.txLog = s.txLog ∧ t.fifoLog = s.fifoLog ∧ t.evLog = s.evLog ∧ t.timeLog = s.timeLog ∧ t.cbLog = s.cbLog ∧
    t.setupLog = s.setupLog
  ret : t.ret = s.ret
  inbox : t.inbox = s.inbox

/-- Two pipe records that agree but for the toggle bit, which `Hw` may change at any of its steps (R244). -/
def Pipe.SameButToggle (a b : Pipe) : Prop := { a with toggle := false } = { b with toggle := false }

/-! ### The port procedure (R104, R106) -/

/-- What `AcquirePort(i, f)` has done when it cleared and bound the port (R104): the port belongs to pipe `i`, with
nothing staged; a port the pipe owned before is dropped; one draw is used; nothing else changes, enable bits included. -/
structure PortTaken (i : PipeId) (f : FPort) (s v : State) : Prop where
  port : v.port f = { s.port f with owner := some i, stage := [] }
  others : ∀ q, q ≠ f → v.port q =
    if (s.port q).owner = some i then { s.port q with owner := none, stage := [] } else s.port q
  draws : v.draws = (drawClearPolls s).2.draws
  rest : { v with portC := s.portC, portD0 := s.portD0, portD1 := s.portD1, draws := s.draws } = s

/-- What `AcquirePort(i, f)` has done when the clear was not confirmed in time (R104, R106): the port is as before, the
pipe is wedged; a port the pipe owned before is dropped; one draw is used; nothing else changes. -/
structure PortRefused (i : PipeId) (f : FPort) (s v : State) : Prop where
  port : v.port f = s.port f
  others : ∀ q, q ≠ f → v.port q =
    if (s.port q).owner = some i then { s.port q with owner := none, stage := [] } else s.port q
  pipe : v.pipe i = { s.pipe i with wedged := true }
  pipes : ∀ j, j ≠ i → v.pipe j = s.pipe j
  draws : v.draws = (drawClearPolls s).2.draws
  rest : { v with
    portC := s.portC, portD0 := s.portD0, portD1 := s.portD1, draws := s.draws, pipes := s.pipes } = s

/-- `AcquirePort(i, f)` answers ok (R104, R106): the pipe owns the port already, or the clear is confirmed within
`PORT_CLEAR_MAX_SPIN` polls. -/
def State.CanAcquire (s : State) (i : PipeId) (f : FPort) : Prop :=
  (s.port f).owner = some i ∨ (drawClearPolls s).1 ≤ s.cfg.portClearMaxSpin

/-- `AcquirePort(i, f)` answered ok (R104); if the pipe owns the port already, "no register access at all". -/
def Acquired (i : PipeId) (f : FPort) (s v : State) : Prop :=
  if (s.port f).owner = some i then v = s else PortTaken i f s v

/-! ### The end of a request (R130, R198) -/

/-- The data stage of a control request is under way on pipe `i` (R198). -/
def State.inDataStage (s : State) (i : PipeId) : Bool :=
  decide (i = 0) && decide (s.cfg.mode = .peripheral) && decide (s.ctrl.state = .cDataStage)

/-- The callback an end gives slot `d`: `bytes_transferred = req_len - remaining` (R250). -/
def endingOf (i : PipeId) (d : Dir) (res : Result) (s : State) : List CbEntry :=
  let x := (s.pipe i).slot d
  if x.state = .idle then [] else [⟨x.cb, i, res, x.reqLen.toNat - x.remaining.toNat⟩]

/-- The callbacks of a forced termination, "routed slot first" (R130). -/
def endings (i : PipeId) (res : Result) (s : State) : List CbEntry :=
  endingOf i (s.route i) res s ++ endingOf i (s.route i).other res s

/-- Events go on to the other slot of pipe 0 (R29, R130). -/
def State.goesOn (s : State) (i : PipeId) (d : Dir) : Bool :=
  decide (i = 0) && decide (((s.pipe 0).slot d.other).state ≠ .idle)

/-- The normal end of slot `d` of pipe `i` (R130, `Complete`), from the state `s` in which its last bytes have moved. -/
structure Completed (i : PipeId) (d : Dir) (res : Result) (s u : State) : Prop where
  frame : OnlyPipe i s u
  callbacks : u.cbLog = s.cbLog ++
    [⟨((s.pipe i).slot d).cb, i, res, ((s.pipe i).slot d).reqLen.toNat - ((s.pipe i).slot d).remaining.toNat⟩]
  record : u.pipe i =
    { (s.pipe i).setSlot d Slot.empty with
      ignoreCnt := 0
      trncnt := 0
      curDir := if s.goesOn i d then d.other else (s.pipe i).curDir
      pid :=
        if s.inDataStage i then (if res = .exact ∨ res = .shortPacket then .buf else .stall)
        else if s.goesOn i d then (s.pipe i).pid
        else .nak }
  ctrl : u.ctrl =
    if s.inDataStage i then
      (if res = .exact ∨ res = .shortPacket then { s.ctrl with statusEn := true, state := .cStatusStage }
       else { s.ctrl with statusEn := false, state := .cStalled })
    else s.ctrl
  enb : ∀ x : Source, x.pipe? = some i → u.enb x = (s.enb x && s.goesOn i d)
  sts : ∀ x, u.sts x = s.sts x
  ports : ∀ p, u.port p = s.port p
  chans : ∀ p, u.chan p = s.chan p
  mem : u.mem = s.mem
  logs : u.txLog = s.txLog ∧ u.fifoLog = s.fifoLog ∧ u.timeLog = s.timeLog
  draws : u.draws = s.draws
  ret : u.ret = s.ret

/-- What a forced termination of pipe `i` with an error code does (R130, R35): each outstanding slot ends with the same
result code, sources are off and status is clear, counters are zero, every channel bound to the pipe is torn down, every
port the pipe owned is cleared or the pipe is wedged, and a data stage under way ends in `CStalled` (R198); nothing else
changes. -/
structure Terminated (i : PipeId) (res : Result) (s u : State) : Prop where
  frame : OnlyPipe i s u
  callbacks : u.cbLog = s.cbLog ++ endings i res s
  idle : s.busy i = true → ((u.pipe i).slotRx.state = .idle ∧ (u.pipe i).slotTx.state = .idle)
  emptied : ∀ d, (u.pipe i).slot d = if ((s.pipe i).slot d).state = .idle then (s.pipe i).slot d else Slot.empty
  record : u.pipe i =
    { s.pipe i with
      slotRx := (u.pipe i).slotRx
      slotTx := (u.pipe i).slotTx
      trncnt := 0
      ignoreCnt := 0
      rxFifo := none
      pid := if s.inDataStage i && s.busy i then .stall else .nak
      wedged := (u.pipe i).wedged }
  ctrl : u.ctrl =
    if s.inDataStage i && s.busy i then { s.ctrl with statusEn := false, state := .cStalled } else s.ctrl
  enb : ∀ x : Source, x.pipe? = some i → u.enb x = false
  sts : ∀ x : Source, x.pipe? = some i → u.sts x = false
  wedged : (s.pipe i).wedged = true → (u.pipe i).wedged = true
  disarmed : ∀ p, (s.chan p).bound = true → (s.chan p).pipe = i →
    u.chan p = { s.chan p with armed := false, bound := false, done := false } ∧ (u.port p.fport).dreq = false
  chans : ∀ p, ¬ ((s.chan p).bound = true ∧ (s.chan p).pipe = i) →
    u.chan p = s.chan p ∧ (u.port p.fport).dreq = (s.port p.fport).dreq
  dreqC : (u.port .c).dreq = (s.port .c).dreq
  unowned : ∀ f, (s.port f).owner ≠ some i →
    (u.port f).owner = (s.port f).owner ∧ (u.port f).stage = (s.port f).stage
  owned : ∀ f, (s.port f).owner = some i →
    ((u.port f).owner = none ∧ (u.port f).stage = []) ∨
    ((u.port f).owner = some i ∧ (u.port f).stage = (s.port f).stage ∧ (u.pipe i).wedged = true)
  newlyWedged : (u.pipe i).wedged = (s.pipe i).wedged ∨ ∃ f, (s.port f).owner = some i ∧ (u.port f).owner = some i
  noPort : (∀ f, (s.port f).owner ≠ some i) → (u.pipe i).wedged = (s.pipe i).wedged ∧ u.draws = s.draws
  onePort : ∀ f, (s.port f).owner = some i → (∀ g, (s.port g).owner = some i → g = f) →
    u.draws = (drawClearPolls s).2.draws ∧
    (if (drawClearPolls s).1 ≤ s.cfg.portClearMaxSpin then
      (u.port f).owner = none ∧ (u.port f).stage = [] ∧ (u.pipe i).wedged = (s.pipe i).wedged
     else (u.port f).owner = some i ∧ (u.port f).stage = (s.port f).stage ∧ (u.pipe i).wedged = true)
  mem : u.mem = s.mem
  logs : u.txLog = s.txLog ∧ u.fifoLog = s.fifoLog ∧ u.timeLog = s.timeLog
  ret : u.ret = s.ret

/-- `if Busy(i) : TerminateAll(i, result)`: an idle pipe is left exactly as it is. -/
def Ended (i : PipeId) (res : Result) (s u : State) : Prop :=
  if s.busy i then Terminated i res s u else u = s

/-- The FIFO ports and the DMA channels after the pipes of `cut`, and no others, were force-terminated (R130, R35): every
channel bound to one of them is torn down, every port one of them owned is cleared or its owner is wedged, and every
other channel and port is as it was. -/
structure CutOff (cut : PipeId → Bool) (s t : State) : Prop where
  disarmed : ∀ q, (s.chan q).bound = true → cut (s.chan q).pipe = true →
    t.chan q = { s.chan q with armed := false, bound := false, done := false } ∧ (t.port q.fport).dreq = false
  chans : ∀ q, ¬ ((s.chan q).bound = true ∧ cut (s.chan q).pipe = true) →
    t.chan q = s.chan q ∧ (t.port q.fport).dreq = (s.port q.fport).dreq
  dreqC : (t.port .c).dreq = (s.port .c).dreq
  unowned : ∀ f, (∀ j, cut j = true → (s.port f).owner ≠ some j) →
    (t.port f).owner = (s.port f).owner ∧ (t.port f).stage = (s.port f).stage
  owned : ∀ f j, cut j = true → (s.port f).owner = some j →
    ((t.port f).owner = none ∧ (t.port f).stage = []) ∨
    ((t.port f).owner = some j ∧ (t.port f).stage = (s.port f).stage ∧ (t.pipe j).wedged = true)
  wedged : ∀ j, (s.pipe j).wedged = true → (t.pipe j).wedged = true
  newlyWedged : ∀ j, (t.pipe j).wedged = (s.pipe j).wedged ∨
    (cut j = true ∧ ∃ f, (s.port f).owner = some j ∧ (t.port f).owner = some j)
  noPort : (∀ f j, cut j = true → (s.port f).owner ≠ some j) → t.draws = s.draws
  onePort : ∀ f j, cut j = true → (s.port f).owner = some j →
    (∀ g i, cut i = true → (s.port g).owner = some i → g = f) →
    t.draws = (drawClearPolls s).2.draws ∧
    (if (drawClearPolls s).1 ≤ s.cfg.portClearMaxSpin then
      (t.port f).owner = none ∧ (t.port f).stage = [] ∧ (t.pipe j).wedged = (s.pipe j).wedged
     else (t.port f).owner = some j ∧ (t.port f).stage = (s.port f).stage ∧ (t.pipe j).wedged = true)

/-! ### Submission (R120) -/

/-- What accepting a request on the CPU path does to the state `v` that `AcquirePort` left (R120). -/
structure Accepted (i : PipeId) (d : Dir) (buf len cb : Word) (v u : State) : Prop where
  frame : OnlyPipe i v u
  record : u.pipe i =
    { (v.pipe i).setSlot d ⟨.armed, buf, len, len, cb, .cpu, false⟩ with
      trncnt := BitVec.ofNat 32 ((len.toNat + (v.pipe i).mps - 1) / (v.pipe i).mps)
      ignoreCnt := 0
      curDir := if i = 0 then d else (v.pipe i).curDir
      rxFifo := if d = .rx then none else (v.pipe i).rxFifo
      pid := .buf }
  enb : u.enb (.brdy i) = true ∧ u.enb (.nrdy i) = true ∧ u.enb (.bemp i) = v.enb (.bemp i)
  sts : ∀ x : Source, x.pipe? = some i → u.sts x = false
  data : SameData v u

/-! ### One packet through a FIFO port (R125, R126) -/

/-- What `WriteChunk(i)` does to the state `v` in which pipe `i` owns `PORT_C` with nothing staged (R66, R68, R125):
`min(remaining, mps)` bytes go out as one packet; the last one is followed by, or is, a packet with the null/short marker,
and the request ends `Exact`. -/
def ChunkWritten (i : PipeId) (v u : State) : Prop :=
  let x := (v.pipe i).slotTx
  let m := (v.pipe i).mps
  let n := min x.remaining.toNat m
  let bs := memRead v.mem x.buf n
  ∃ w : State,
    w.txLog = v.txLog ++
      (if n < x.remaining.toNat then [⟨i, bs, false⟩]
       else if n = m then [⟨i, bs, false⟩, ⟨i, [], true⟩]
       else [⟨i, bs, true⟩]) ∧
    w.fifoLog = v.fifoLog ++ fifoSplit .c .w (wordBytesOf v.cfg.wordBytes) v.cfg.fifoEndian bs ∧
    w.pipe i = { v.pipe i with
      slotTx := { x with
        buf := x.buf + BitVec.ofNat 32 n, remaining := BitVec.ofNat 32 (x.remaining.toNat - n) } } ∧
    (∀ j, j ≠ i → w.pipe j = v.pipe j) ∧
    { w with txLog := v.txLog, fifoLog := v.fifoLog, pipes := v.pipes } = v ∧
    (if n < x.remaining.toNat then u = w else Completed i .tx .exact w u)

/-- What `ReadChunk(i)` does to the state `v` in which pipe `i` owns `PORT_C` and the packet `pkt` waits (R67, R126):
`min(remaining, length pkt)` bytes reach memory, the packet buffer is released, and the request ends or goes on. -/
def PacketRead (i : PipeId) (pkt : List Byte) (v u : State) : Prop :=
  let x := (v.pipe i).slotRx
  let n := min x.remaining.toNat pkt.length
  ∃ w : State,
    w.fifoLog = v.fifoLog ++ fifoSplit .c .r (wordBytesOf v.cfg.wordBytes) v.cfg.fifoEndian (pkt.take n) ∧
    w.pipe i = { v.pipe i with
      rxFifo := none
      slotRx := { x with
        buf := x.buf + BitVec.ofNat 32 n, remaining := BitVec.ofNat 32 (x.remaining.toNat - n) } } ∧
    (∀ j, j ≠ i → w.pipe j = v.pipe j) ∧
    (∀ k (h : k < pkt.length), k < n → Memory.read w.mem (x.buf + BitVec.ofNat 32 k).toNat = pkt[k]) ∧
    (∀ a, ¬ inRange x.buf n a → Memory.read w.mem a = Memory.read v.mem a) ∧
    { w with mem := v.mem, fifoLog := v.fifoLog, pipes := v.pipes } = v ∧
    (if n < pkt.length then Completed i .rx .overrun w u
     else if x.remaining.toNat = n then Completed i .rx .exact w u
     else if pkt.length < (v.pipe i).mps then Completed i .rx .shortPacket w u
     else u = w)

/-! ### The block-DMA engine (R151, R155) -/

/-- What accepting a request on the DMA path does to the state `v` that `AcquirePort` left (R151, R153). -/
structure DmaAccepted (i : PipeId) (d : Dir) (buf len cb : Word) (p : DPort) (v u : State) : Prop where
  frame : OnlyPipe i v u
  record : u.pipe i =
    { (v.pipe i).setSlot d ⟨.dmaArmed, buf, len, len, cb, .dma p, false⟩ with
      trncnt := BitVec.ofNat 32 ((len.toNat + (v.pipe i).mps - 1) / (v.pipe i).mps)
      ignoreCnt := 0
      rxFifo := if d = .rx then none else (v.pipe i).rxFifo
      pid := .buf }
  chan : u.chan p =
    { bound := true
      pipe := i
      dirn := d
      addr := buf
      width := (u.chan p).width
      blockSize := v.blockSize p
      blockCount := len.toNat / v.blockSize p
      crb := len.toNat / v.blockSize p
      lastLen := v.blockSize p
      armed := true
      done := false
      size := BitVec.ofNat 32 (len.toNat / v.blockSize p * v.blockSize p) }
  width : (u.chan p).width ∈ v.cfg.dmaWidths ∧ len.toNat / v.blockSize p * v.blockSize p % (u.chan p).width = 0 ∧
    ∀ x ∈ v.cfg.dmaWidths, len.toNat / v.blockSize p * v.blockSize p % x = 0 → x ≤ (u.chan p).width
  chans : ∀ q, q ≠ p → u.chan q = v.chan q
  dreq : u.port p.fport = { v.port p.fport with dreq := true }
  ports : ∀ f, f ≠ p.fport → u.port f = v.port f
  enb : u.enb (.nrdy i) = true ∧ u.enb (.brdy i) = v.enb (.brdy i) ∧ u.enb (.bemp i) = v.enb (.bemp i)
  sts : ∀ x : Source, x.pipe? = some i → u.sts x = false
  ctrl : u.ctrl = v.ctrl
  mem : u.mem = v.mem
  logs : u.txLog = v.txLog ∧ u.fifoLog = v.fifoLog ∧ u.timeLog = v.timeLog ∧ u.cbLog = v.cbLog
  draws : u.draws = v.draws

/-- The bytes the engine moved (R155): none if no block, else whole blocks and the valid bytes of the last one. -/
def Chan.bytesMoved (c : Chan) : Nat :=
  if c.crb = c.blockCount then 0 else (c.blockCount - c.crb - 1) * c.blockSize + c.lastLen

/-- The accounting of `DMA_IRQ` on port `p` (R155): the moved bytes leave the slot and the binding is destroyed. -/
structure Accounted (p : DPort) (s w : State) : Prop where
  slot : (w.pipe (s.chan p).pipe).slot (s.chan p).dirn =
    { (s.pipe (s.chan p).pipe).slot (s.chan p).dirn with
      buf := ((s.pipe (s.chan p).pipe).slot (s.chan p).dirn).buf + BitVec.ofNat 32 (s.chan p).bytesMoved
      remaining := BitVec.ofNat 32
        (((s.pipe (s.chan p).pipe).slot (s.chan p).dirn).remaining.toNat - (s.chan p).bytesMoved) }
  record : (w.pipe (s.chan p).pipe).setSlot (s.chan p).dirn Slot.empty =
    (s.pipe (s.chan p).pipe).setSlot (s.chan p).dirn Slot.empty
  pipes : ∀ j, j ≠ (s.chan p).pipe → w.pipe j = s.pipe j
  chan : w.chan p = { s.chan p with armed := false, bound := false, done := false }
  chans : ∀ q, q ≠ p → w.chan q = s.chan q
  dreq : w.port p.fport = { s.port p.fport with dreq := false }
  ports : ∀ f, f ≠ p.fport → w.port f = s.port f
  rest : { w with
    pipes := s.pipes, chanD0 := s.chanD0, chanD1 := s.chanD1, portC := s.portC, portD0 := s.portD0,
    portD1 := s.portD1 } = s

/-- The slot of direction `d` of pipe `i` becomes a one-shot CPU-path transfer of what remains (R155, R156): the state
`v` that `AcquirePort` left, changed in three fields of the slot and one enable bit. -/
structure OneShot (i : PipeId) (d : Dir) (v u : State) : Prop where
  frame : OnlyPipe i v u
  record : u.pipe i =
    (v.pipe i).setSlot d { (v.pipe i).slot d with state := .armed, path := .cpu, oneShot := true }
  enb : u.enb (.brdy i) = true ∧ u.enb (.nrdy i) = v.enb (.nrdy i) ∧ u.enb (.bemp i) = v.enb (.bemp i)
  sts : ∀ x, u.sts x = v.sts x
  data : SameData v u
  ret : u.ret = v.ret

end Sys2Proof.Machine
end

