-- ==== Sys2Proof/Certificates/Slice0/Obligations.lean ====
section
/-! DEFINITION. The statements for the provers. Each docstring names the rules of the spec it formalises. Hypotheses are
on the state and the operands alone; the predicates (`Acquired`, `Accepted`, `Completed`, `Terminated`, …) are those of
Safety.lean, where each is written from its rule. -/

open Sys2Proof Sys2Proof.Machine

/-! ### Encoding and the step -/

/-- R80 to R83: for every well-formed operation, decoding its encoding gives it back, every operand at every value. -/
def Obligations.DecodeOfEncode : Prop :=
  ∀ (c : Cfg) (i : Instr), i.wellFormed c = true → decode (encode i) = .instr i

/-- R81 to R83, R87: a record or source id that decodes is the encoding of what it decodes to, so no bit of it, and no
byte beside it, is ignored; the one exception is the device address of `CONFIGURE_PIPE` with `dav = 0`. Two clauses are
the model's reading and not the rules' words: that exception (log entry 9), and that a record with bytes beside it which
its operation does not carry, or whose number is not `w2`, never decodes (log entry 15). -/
def Obligations.EncodeOfDecode : Prop :=
  (∀ (r : Record) (i : Instr), decodeRecord r = .instr i → (r.op = 0x01 → r.dav = 0 → r.devaddr = 0) →
    encode i = .record r) ∧
  (∀ (sid : BitVec 8) (i : Instr), decodeSource sid = .instr i → encode i = .source sid)

/-- R90: the two worked encodings, in both directions. -/
def Obligations.SpecWordsDecode : Prop :=
  encode (.write 1 0x1000 130 7) = .record ⟨0x00000111, 0x00001000, 0x00000082, 0x00000007, 0, []⟩ ∧
  decode (.record ⟨0x00000111, 0x00001000, 0x00000082, 0x00000007, 0, []⟩) = .instr (.write 1 0x1000 130 7) ∧
  encode (.configurePipe 1 .bulk .out 64 (some 1)) = .record ⟨0x00040101, 0, 0, 0, 0x00040840, []⟩ ∧
  decode (.record ⟨0x00040101, 0, 0, 0, 0x00040840, []⟩) = .instr (.configurePipe 1 .bulk .out 64 (some 1))

/-- R87: an unknown operation code returns `InvalidOp`, a defective record `InvalidArg`, both with no state change; an
`IRQ` or `ENV` record with such a defect is no step. Three clauses are the model's reading and not the rule's words: that
format bits `11` belong to no format and return `InvalidOp` (log entry 8), that a defective record of the wrong mode
returns `InvalidArg`, where R88 alone gives `InvalidState` (log entry 10), and that an unknown operation code beside a
non-zero reserved bit returns `InvalidOp` (log entry 20). -/
def Obligations.DefectiveRecords : Prop :=
  ∀ (s : State) (r : Record) (rest : List Input), s.inbox = .record r :: rest →
    (r.op.toNat ∉ tableOps → step s =
      if r.w0.extractLsb' 6 2 = 1 ∨ r.w0.extractLsb' 6 2 = 2 then .refused .notAStep
      else .next ((s.setInbox rest).returns .invalidOp)) ∧
    (r.op.toNat ∈ tableOps → r.Defective s.cfg → step s =
      if r.w0.extractLsb' 6 2 = 0 then .next ((s.setInbox rest).returns .invalidArg) else .refused .notAStep)

/-- R88: an operation of the other mode returns `InvalidState` or, an environment step or handler, does not exist; with
`STRATEGY = CpuOnly`, `DMA_START` is `READ` or `WRITE` and the other DMA steps do not exist. -/
def Obligations.ModeLegality : Prop :=
  ∀ (i : Instr) (s : State), i.wellFormed s.cfg = true →
    ((i.hostOnly = true ∧ s.cfg.mode = .peripheral) ∨ (i.peripheralOnly = true ∧ s.cfg.mode = .host) →
      exec i s = if i.format = .cmd then .next (s.returns .invalidState) else .refused .wrongMode) ∧
    (s.cfg.strategy = .cpuOnly →
      (∀ idx b l f c j, i = .dmaStart idx b l f c → f ≠ .c → s.pipeOf? idx.toNat = some j → j ≠ 0 →
        exec i s = exec ((s.xdir j).request idx b l c) s) ∧
      (∀ f, i = .dmaIrq f ∨ i = .dmaBlock f → exec i s = .refused .wrongMode))

/-- R7, R281 (the inbox is the model's own, log entry 1): a step is `exec` of the decoded oldest input on the state
without that input; with an empty inbox the block waits; `withFetchWord` makes the next step run the decoded word. -/
def Obligations.StepRunsDecodedInstruction : Prop :=
  (∀ (s : State) (x : Input) (rest : List Input) (i : Instr), s.inbox = x :: rest → decode x = .instr i →
    step s = exec i (s.setInbox rest)) ∧
  (∀ s : State, s.inbox = [] → step s = .next s) ∧
  (∀ (s : State) (nbits w : Nat) (i : Instr), decodeTableWord nbits w = some i →
    step (s.withFetchWord nbits w) = exec i s)

/-! ### The whole machine -/

/-- R8: no operation changes the configuration. -/
def Obligations.ConfigurationNeverChanges : Prop :=
  (∀ (i : Instr) (s t : State), exec i s = .next t → t.cfg = s.cfg) ∧
  (∀ s t : State, step s = .next t → t.cfg = s.cfg)

/-- R263: every command returns in the transition that runs it, from every state. -/
def Obligations.EveryCommandReturns : Prop :=
  ∀ (i : Instr) (s : State), i.format = .cmd → ∃ (t : State) (r : Status), exec i s = .next t ∧ t.ret = some r

/-- The model's own fields (log entries 1, 6): no operation touches the inbox, of which a step uses up one input; no
operation but a command returns a status. -/
def Obligations.OwnFields : Prop :=
  (∀ (i : Instr) (s t : State), exec i s = .next t → t.inbox = s.inbox ∧ (i.format ≠ .cmd → t.ret = s.ret)) ∧
  (∀ s t : State, step s = .next t → t.inbox = s.inbox.tail)

/-- R252: a command that returns anything but `Ok` has changed no state and made no callback, except that a port found
wedged marks one pipe and may end that pipe's outstanding requests with `PortWedged`. -/
def Obligations.RejectedCommandChangesNothing : Prop :=
  ∀ (i : Instr) (s t : State) (r : Status), i.format = .cmd → exec i s = .next t → t.ret = some r → r ≠ .ok →
    t = s.returns r ∨
    (r = .portWedgedNow ∧ ∃ j, OnlyPipe j s t ∧ (t.pipe j).wedged = true ∧ t.mem = s.mem ∧ t.txLog = s.txLog ∧
      (t.cbLog = s.cbLog ∨ t.cbLog = s.cbLog ++ endings j .portWedged s))

/-- R251: every accepted request gets exactly one callback, with its own identifier and pipe, unless it is still
outstanding: whatever operation runs, ended and outstanding requests together gain the request that was accepted, if one
was, and nothing else. -/
def Obligations.RequestsEndExactlyOnce : Prop :=
  ∀ (i : Instr) (s t : State), exec i s = .next t → ∀ x : Word × PipeId,
    t.ledger.count x = s.ledger.count x +
      (if t.ret = some .ok ∧ i.request? = some (x.1, x.2.val) then 1 else 0)

/-- R47: the logs are empty at reset, and no rule reads them: with anything logged before, every operation does the same
and keeps what was logged. -/
def Obligations.LogsAreOutputs : Prop :=
  (∀ (i : Instr) (s : State) (l : Logs), exec i (s.withEarlier l) = mapNext (·.withEarlier l) (exec i s)) ∧
  (∀ c : Cfg, (State.resetFor c).txLog = [] ∧ (State.resetFor c).fifoLog = [] ∧ (State.resetFor c).evLog = [] ∧
    (State.resetFor c).timeLog = [] ∧ (State.resetFor c).cbLog = [] ∧ (State.resetFor c).setupLog = [])

/-- R230: what the agents `Hw` and `Dma` may write, and that they write nothing else. -/
def Obligations.EnvironmentWrites : Prop :=
  ∀ (i : Instr) (s t : State), i.format = .env → exec i s = .next t →
    (∀ x, s.sts x = true → t.sts x = true) ∧ (∀ x, t.enb x = s.enb x) ∧
    (∀ j, t.pipe j =
      { s.pipe j with rxFifo := (t.pipe j).rxFifo, pid := (t.pipe j).pid, toggle := (t.pipe j).toggle }) ∧
    (∀ j, (t.pipe j).pid = (s.pipe j).pid ∨ ((s.pipe j).pid = .buf ∧ (t.pipe j).pid = .stall)) ∧
    (∀ p, t.port p = s.port p) ∧
    (∀ p, t.chan p =
      { s.chan p with
        crb := (t.chan p).crb, lastLen := (t.chan p).lastLen, addr := (t.chan p).addr, armed := (t.chan p).armed,
        done := (t.chan p).done }) ∧
    (∀ k, t.link k = s.link k) ∧ t.ctrl = { s.ctrl with setup := t.ctrl.setup } ∧
    (t.mem = s.mem ∨ ∃ p : DPort, i = .dmaBlock p.fport ∧ (s.chan p).dirn = .rx) ∧
    (t.txLog = s.txLog ∨ ∃ p : DPort, i = .dmaBlock p.fport ∧ (s.chan p).dirn = .tx) ∧
    t.fifoLog = s.fifoLog ∧ t.evLog = s.evLog ∧ t.timeLog = s.timeLog ∧ t.cbLog = s.cbLog ∧ t.setupLog = s.setupLog

/-- R25: a pipe becomes configured only by `CONFIGURE_PIPE` and stops being so only by `RELEASE_PIPE` or by the detach
handler (called by `USB_IRQ`, or alone); pipe 0 never stops. -/
def Obligations.ConfiguredLifecycle : Prop :=
  ∀ (i : Instr) (s t : State) (j : PipeId), exec i s = .next t →
    ((s.pipe j).configured = false → (t.pipe j).configured = true →
      ∃ idx ty d m a, i = .configurePipe idx ty d m a ∧ idx.toNat = j.val) ∧
    ((s.pipe j).configured = true → (t.pipe j).configured = false →
      j ≠ 0 ∧ ((∃ idx, i = .releasePipe idx ∧ idx.toNat = j.val) ∨ (∃ k, i = .hDetach k) ∨ i = .usbIrq))

/-- R39, R215: a status bit is set by environment steps only; link and control status bits are cleared only by the
dispatcher, and only when they are enabled. -/
def Obligations.StatusBits : Prop :=
  ∀ (i : Instr) (s t : State) (x : Source), exec i s = .next t →
    (s.sts x = false → t.sts x = true → i.format = .env) ∧
    (x.reg = .link ∨ x.reg = .ctrl → s.sts x = true → t.sts x = false → i = .usbIrq ∧ s.enb x = true)

/-- R280: the state after reset of every configuration, field by field. (Memory, the draws, the inbox and the return
status after reset are the model's own: log entries 1, 4, 6, 7.) -/
def Obligations.ResetState : Prop :=
  (∀ c : Cfg, (State.resetFor c).cfg = c ∧
    (State.resetFor c).pipe 0 =
      ⟨true, .control, .out, 64, if c.mode = .host then some 0 else none, false, .nak, 0, 0, false,
        ⟨.idle, 0, 0, 0, 0, .cpu, false⟩, ⟨.idle, 0, 0, 0, 0, .cpu, false⟩, .rx, none⟩ ∧
    (∀ i : PipeId, i ≠ 0 → (State.resetFor c).pipe i =
      ⟨false, .bulk, .out, 64, none, false, .nak, 0, 0, false,
        ⟨.idle, 0, 0, 0, 0, .cpu, false⟩, ⟨.idle, 0, 0, 0, 0, .cpu, false⟩, .rx, none⟩) ∧
    (∀ p, (State.resetFor c).port p = ⟨none, false, []⟩) ∧
    (∀ p, (State.resetFor c).chan p = ⟨false, 0, .tx, 0, 1, 0, 0, 0, 0, false, false, 0⟩) ∧
    (∀ k, (State.resetFor c).link k = ⟨.detached, .cDetached, false, none, false, false, false, false⟩) ∧
    (State.resetFor c).ctrl = ⟨.cIdle, Vector.replicate 8 0, 0, false⟩ ∧
    (∀ x, (State.resetFor c).sts x = false) ∧
    (∀ i, (State.resetFor c).enb (.brdy i) = false ∧ (State.resetFor c).enb (.bemp i) = false ∧
      (State.resetFor c).enb (.nrdy i) = false) ∧
    (∀ k : PortId, k.val < c.numPhysPorts → (State.resetFor c).enb (.attach k) = decide (c.mode = .host) ∧
      (State.resetFor c).enb (.detach k) = false ∧ (State.resetFor c).enb (.linechg k) = false) ∧
    (∀ x, x.reg = .ctrl → (State.resetFor c).enb x = decide (c.mode = .peripheral)) ∧
    (State.resetFor c).txLog = [] ∧ (State.resetFor c).fifoLog = [] ∧ (State.resetFor c).evLog = [] ∧
    (State.resetFor c).timeLog = [] ∧ (State.resetFor c).cbLog = [] ∧ (State.resetFor c).setupLog = []) ∧
  State.reset = State.resetFor Cfg.default

/-- R280, R281: the reset state of every configuration in the ranges of R9, `State.reset` among them, meets the invariants;
it is quiescent (R294). -/
def Obligations.ResetMeetsInvariants : Prop :=
  (∀ c : Cfg, c.wf = true → Inv (State.resetFor c) ∧ Quiescent (State.resetFor c)) ∧ Inv State.reset

/-- R109 (with R20, R21, R25, R257): every step keeps the invariant of the pipe records. -/
def Obligations.StepKeepsPipeInv : Prop :=
  ∀ s t : State, PipeInv s → step s = .next t → PipeInv t

/-- R33 (with R31, R66): every step keeps the invariant of the ports: no pipe owns two, nothing stays staged, a DMA
request is on only while its channel is bound. -/
def Obligations.StepKeepsPortInv : Prop :=
  ∀ s t : State, PortInv s → step s = .next t → PortInv t

/-- R34, R242: every step keeps the invariant of the channels. -/
def Obligations.StepKeepsChanInv : Prop :=
  ∀ s t : State, ChanInv s → step s = .next t → ChanInv t

/-- R180 (with R41): every step keeps the invariants between the fields of the link records and the gating of their
sources. -/
def Obligations.StepKeepsLinkInv : Prop :=
  ∀ s t : State, LinkInv s → step s = .next t → LinkInv t

/-- R38, R191 to R198: every step keeps the invariant of the control record. -/
def Obligations.StepKeepsCtrlInv : Prop :=
  ∀ s t : State, CtrlInv s → step s = .next t → CtrlInv t

/-- R60, R62: every step keeps memory in its canonical form, so equal memories stay equal data (log entry 7). -/
def Obligations.StepKeepsMemoryForm : Prop :=
  ∀ s t : State, Memory.wf s.mem = true → step s = .next t → Memory.wf t.mem = true

/-- R256: the one fault is `DMA_IRQ` on a live binding of a write with blocks remaining; in a state that meets the channel
invariant no step faults. -/
def Obligations.OnlyIncompleteWriteFaults : Prop :=
  (∀ (i : Instr) (s : State) (f : Fault), exec i s = .fault f →
    ∃ p : DPort, i = .dmaIrq p.fport ∧ f = .dmaIncompleteWrite p ∧ (s.chan p).done = true ∧ (s.chan p).bound = true ∧
      (s.chan p).dirn = .tx ∧ ¬ ((s.chan p).crb = 0 ∧ (s.chan p).lastLen = (s.chan p).blockSize)) ∧
  (∀ s : State, ChanInv s → SafeStep s)

/-! ### Pipe/FIFO Manager -/

/-- R101: `CONFIGURE_PIPE`, whole: the arguments it rejects, a busy pipe, and what it writes. -/
def Obligations.ConfigurePipe : Prop :=
  ∀ (idx : BitVec 8) (ty : TType) (d : UsbDir) (m : BitVec 11) (a : Option (BitVec 7)) (s : State),
    (s.cfg.numPipes ≤ idx.toNat → exec (.configurePipe idx ty d m a) s = .next (s.returns .invalidArg)) ∧
    (∀ i : PipeId, s.pipeOf? idx.toNat = some i →
      (m.toNat = 0 ∨ 1024 < m.toNat ∨ (i = 0 ∧ (ty ≠ .control ∨ d ≠ .out)) ∨ (i ≠ 0 ∧ ty = .control) ∨
        (s.cfg.mode = .host ∧ a = none) ∨ (s.cfg.mode = .peripheral ∧ a ≠ none) →
        exec (.configurePipe idx ty d m a) s = .next (s.returns .invalidArg)) ∧
      (1 ≤ m.toNat → m.toNat ≤ 1024 → (i = 0 → ty = .control ∧ d = .out) → (i ≠ 0 → ty ≠ .control) →
        (s.cfg.mode = .host → a ≠ none) → (s.cfg.mode = .peripheral → a = none) →
        (s.busy i = true → exec (.configurePipe idx ty d m a) s = .next (s.returns .busy)) ∧
        (s.busy i = false → ∃ u, exec (.configurePipe idx ty d m a) s = .next u ∧ u.ret = some .ok ∧
          u.pipe i =
            { s.pipe i with
              configured := true
              ttype := if i = 0 then (s.pipe i).ttype else ty
              dir := if i = 0 then (s.pipe i).dir else d
              mps := m.toNat
              devaddr := a
              toggle := false
              pid := .nak
              trncnt := 0
              ignoreCnt := 0
              wedged := false
              rxFifo := none } ∧
          (∀ x : Source, x.pipe? = some i → u.enb x = false ∧ u.sts x = false) ∧ OnlyPipe i s u ∧ SameData s u)))

/-- R108: `RELEASE_PIPE`, whole: a busy pipe ends with `Stopped`, what it writes, that pipe 0 stays configured with its
address and packet size, and that a second release changes nothing. -/
def Obligations.ReleasePipe : Prop :=
  ∀ (idx : BitVec 8) (s : State),
    (s.cfg.numPipes ≤ idx.toNat → exec (.releasePipe idx) s = .next (s.returns .invalidArg)) ∧
    (∀ i : PipeId, s.pipeOf? idx.toNat = some i → ∃ v u : State, Ended i .stopped s v ∧
      exec (.releasePipe idx) s = .next u ∧ u.ret = some .ok ∧
      u.pipe i =
        { v.pipe i with
          trncnt := 0
          ignoreCnt := 0
          pid := .nak
          toggle := false
          rxFifo := none
          configured := if i = 0 then (v.pipe i).configured else false
          devaddr := if i = 0 then (v.pipe i).devaddr else none } ∧
      (∀ x : Source, x.pipe? = some i → u.enb x = false ∧ u.sts x = false) ∧ OnlyPipe i v u ∧ SameData v u ∧
      exec (.releasePipe idx) u = .next u)

/-- R103, R104, R106: `ACQUIRE_PORT`, whole: what it rejects; a port already owned ("no register access at all"); a clear
confirmed in time, which rebinds the port; and one that is not, which wedges the pipe, leaves the port to its owner and
ends what is outstanding. -/
def Obligations.AcquirePortCommand : Prop :=
  ∀ (idx : BitVec 8) (f : FPort) (s : State),
    (s.cfg.numPipes ≤ idx.toNat → exec (.acquirePort idx f) s = .next (s.returns .invalidArg)) ∧
    (∀ i : PipeId, s.pipeOf? idx.toNat = some i →
      ((s.pipe i).configured = false → exec (.acquirePort idx f) s = .next (s.returns .invalidState)) ∧
      ((s.pipe i).configured = true → (s.pipe i).wedged = true →
        exec (.acquirePort idx f) s = .next (s.returns .portWedgedNow)) ∧
      ((s.pipe i).configured = true → (s.pipe i).wedged = false →
        (s.CanAcquire i f → ∃ v, Acquired i f s v ∧ exec (.acquirePort idx f) s = .next (v.returns .ok)) ∧
        (¬ s.CanAcquire i f → ∃ v u, PortRefused i f s v ∧ Ended i .portWedged v u ∧
          exec (.acquirePort idx f) s = .next (u.returns .portWedgedNow))))

/-- R107: a failed port clear leaves every port as it was; a wedged pipe stays wedged until `CONFIGURE_PIPE`; while it is
wedged, `READ`, `WRITE`, `DMA_START` and `ACQUIRE_PORT` on it return `PortWedgedNow` with no state change (on a pipe that
is no longer configured, `InvalidState`, which R103, R120 and R151 test first). -/
def Obligations.WedgedPipe : Prop :=
  (∀ (p q : FPort) (s : State), (clearPort p s).1 = false → ((clearPort p s).2).port q = s.port q) ∧
  (∀ (i : Instr) (s t : State) (j : PipeId), exec i s = .next t → (s.pipe j).wedged = true →
    (t.pipe j).wedged = true ∨ ∃ idx ty d m a, i = .configurePipe idx ty d m a ∧ idx.toNat = j.val) ∧
  (∀ (idx : BitVec 8) (i : PipeId) (s : State) (b l c : Word) (f : FPort),
    s.pipeOf? idx.toNat = some i → (s.pipe i).wedged = true →
    let r := if (s.pipe i).configured then Status.portWedgedNow else Status.invalidState
    exec (.read idx b l c) s = .next (s.returns r) ∧ exec (.write idx b l c) s = .next (s.returns r) ∧
    exec (.acquirePort idx f) s = .next (s.returns r) ∧
    (i ≠ 0 → f ≠ .c → exec (.dmaStart idx b l f c) s = .next (s.returns r)))

/-! ### Transfers, CPU path -/

/-- R120, R121, R122, R29: an accepted `READ` or `WRITE` takes `PORT_C`, arms its slot, programs the transaction counter,
clears status and enables its sources; with `PUSH_FIRST_ON_WRITE` a write's first chunk goes out in the command. -/
def Obligations.SubmissionAccepted : Prop :=
  ∀ (d : Dir) (idx : BitVec 8) (b l c : Word) (s : State) (i : PipeId), s.pipeOf? idx.toNat = some i →
    (s.pipe i).configured = true → (s.pipe i).wedged = false → (i ≠ 0 → s.xdir i = d) → b.toNat + l.toNat ≤ 2 ^ 32 →
    ((s.pipe i).slot d).state = .idle → s.CanAcquire i .c →
    (d = .rx ∨ s.cfg.pushFirstOnWrite = false →
      ∃ v u, Acquired i .c s v ∧ Accepted i d b l c v u ∧ exec (d.request idx b l c) s = .next (u.returns .ok)) ∧
    (d = .tx → s.cfg.pushFirstOnWrite = true → (s.port .c).stage = [] →
      ∃ v w u, Acquired i .c s v ∧ Accepted i d b l c v w ∧ ChunkWritten i w u ∧
        exec (d.request idx b l c) s = .next (u.returns .ok))

/-- R120, R123, R26, R62: the rejections of `READ` and `WRITE`, in the order they are tested; a second request in the same
direction is a `QueueOverrun` and changes nothing; a port that cannot be cleared wedges the pipe. -/
def Obligations.SubmissionRejected : Prop :=
  ∀ (d : Dir) (idx : BitVec 8) (b l c : Word) (s : State),
    (s.cfg.numPipes ≤ idx.toNat → exec (d.request idx b l c) s = .next (s.returns .invalidArg)) ∧
    (∀ i : PipeId, s.pipeOf? idx.toNat = some i →
      ((s.pipe i).configured = false → exec (d.request idx b l c) s = .next (s.returns .invalidState)) ∧
      ((s.pipe i).configured = true → (s.pipe i).wedged = true →
        exec (d.request idx b l c) s = .next (s.returns .portWedgedNow)) ∧
      ((s.pipe i).configured = true → (s.pipe i).wedged = false →
        ((i ≠ 0 ∧ s.xdir i ≠ d) ∨ 2 ^ 32 < b.toNat + l.toNat →
          exec (d.request idx b l c) s = .next (s.returns .invalidArg)) ∧
        ((i ≠ 0 → s.xdir i = d) → b.toNat + l.toNat ≤ 2 ^ 32 →
          (((s.pipe i).slot d).state ≠ .idle → exec (d.request idx b l c) s = .next (s.returns .queueOverrun)) ∧
          (((s.pipe i).slot d).state = .idle → ¬ s.CanAcquire i .c →
            ∃ v u, PortRefused i .c s v ∧ Ended i .portWedged v u ∧
              exec (d.request idx b l c) s = .next (u.returns .portWedgedNow)))))

/-- R131 with R130, R35: `STOP`, whole: on an idle pipe it changes nothing but the returned status; on a busy one every
outstanding request ends with `Stopped`. -/
def Obligations.Stop : Prop :=
  ∀ (idx : BitVec 8) (s : State),
    (s.cfg.numPipes ≤ idx.toNat → exec (.stop idx) s = .next (s.returns .invalidArg)) ∧
    (∀ i : PipeId, s.pipeOf? idx.toNat = some i →
      (s.busy i = false → exec (.stop idx) s = .next (s.returns .ok)) ∧
      (s.busy i = true → ∃ u, Terminated i .stopped s u ∧ exec (.stop idx) s = .next (u.returns .ok)))

/-- R124, R125 with R66, R68, R130: the buffer-ready handler on an armed write sends one packet from the buffer, whatever
the not-ready run before it; the last packet is followed by, or is, the null/short marker and the request ends `Exact`. A
port that cannot be cleared ends the pipe's requests with `PortWedged` and moves nothing. -/
def Obligations.BufferReadyOnWrite : Prop :=
  ∀ (p : BitVec 5) (s : State) (i : PipeId), s.pipeOf? p.toNat = some i → s.route i = .tx →
    (s.pipe i).slotTx.state = .armed →
    (s.CanAcquire i .c → (s.port .c).stage = [] →
      ∃ v u, Acquired i .c (s.modPipe i fun q => { q with ignoreCnt := 0 }) v ∧ ChunkWritten i v u ∧
        exec (.hBrdy p) s = .next u) ∧
    (¬ s.CanAcquire i .c →
      ∃ v u, PortRefused i .c (s.modPipe i fun q => { q with ignoreCnt := 0 }) v ∧ Terminated i .portWedged v u ∧
        exec (.hBrdy p) s = .next u)

/-- R124, R126 with R67, R130: the buffer-ready handler on an armed read takes the waiting packet into memory and tests
`Overrun`, `Exact`, `ShortPacket` in that order. A port that cannot be cleared ends the pipe's requests with `PortWedged`
and moves nothing. -/
def Obligations.BufferReadyOnRead : Prop :=
  ∀ (p : BitVec 5) (s : State) (i : PipeId) (pkt : List Byte), s.pipeOf? p.toNat = some i → s.route i = .rx →
    (s.pipe i).slotRx.state = .armed → (s.pipe i).rxFifo = some pkt →
    (s.CanAcquire i .c →
      ∃ v u, Acquired i .c (s.modPipe i fun q => { q with ignoreCnt := 0 }) v ∧ PacketRead i pkt v u ∧
        exec (.hBrdy p) s = .next u) ∧
    (¬ s.CanAcquire i .c →
      ∃ v u, PortRefused i .c (s.modPipe i fun q => { q with ignoreCnt := 0 }) v ∧ Terminated i .portWedged v u ∧
        exec (.hBrdy p) s = .next u)

/-- R124, R126, R132, R254: a buffer-ready event on a slot that is not armed changes nothing; without a waiting packet a
read goes on as it was; the buffer-empty handler changes nothing. -/
def Obligations.SpuriousBufferEvents : Prop :=
  ∀ (p : BitVec 5) (s : State) (i : PipeId), s.pipeOf? p.toNat = some i →
    (((s.pipe i).slot (s.route i)).state ≠ .armed → exec (.hBrdy p) s = .next s) ∧
    (s.route i = .rx → (s.pipe i).slotRx.state = .armed → (s.pipe i).rxFifo = none →
      exec (.hBrdy p) s = .next (s.modPipe i fun q => { q with ignoreCnt := 0 })) ∧
    exec (.hBemp p) s = .next s

/-- R127: the not-ready handler, whole: idle, stalled, isochronous, at the ceiling, and below it the fixed delay and the
retry. -/
def Obligations.NotReady : Prop :=
  ∀ (p : BitVec 5) (s : State) (i : PipeId), s.pipeOf? p.toNat = some i →
    (((s.pipe i).slot (s.route i)).state = .idle → exec (.hNrdy p) s = .next s) ∧
    (((s.pipe i).slot (s.route i)).state ≠ .idle →
      ((s.pipe i).pid = .stall → ∃ u, Terminated i .stall s u ∧ exec (.hNrdy p) s = .next u) ∧
      ((s.pipe i).pid ≠ .stall → (s.pipe i).ttype = .isochronous →
        ∃ u, Terminated i .notReadyExceeded s u ∧ exec (.hNrdy p) s = .next u) ∧
      ((s.pipe i).pid ≠ .stall → (s.pipe i).ttype ≠ .isochronous → s.cfg.nrdyCeiling ≤ (s.pipe i).ignoreCnt + 1 →
        ∃ u, Terminated i .notReadyExceeded s u ∧ exec (.hNrdy p) s = .next u) ∧
      ((s.pipe i).pid ≠ .stall → (s.pipe i).ttype ≠ .isochronous → (s.pipe i).ignoreCnt + 1 < s.cfg.nrdyCeiling →
        ∃ u, exec (.hNrdy p) s = .next u ∧
          u.pipe i = { s.pipe i with ignoreCnt := (s.pipe i).ignoreCnt + 1, pid := .buf } ∧
          u.timeLog = s.timeLog ++ [.delay s.cfg.nrdyRetryDelay] ∧ (∀ j, j ≠ i → u.pipe j = s.pipe j) ∧
          { u with pipes := s.pipes, timeLog := s.timeLog } = s))

/-- R125, "Packet law": from an armed write of `L` bytes whose pipe owns `PORT_C`, `max 1 ceil(L/P)` buffer-ready events
send exactly the bytes of the buffer, in order, as full packets and one marked short packet, and give one `Exact`
callback. -/
def Obligations.WholeWrite : Prop :=
  ∀ (p : BitVec 5) (s : State) (i : PipeId), s.pipeOf? p.toNat = some i → s.route i = .tx →
    (s.pipe i).slotTx.state = .armed → (s.port .c).owner = some i → (s.port .c).stage = [] → 1 ≤ (s.pipe i).mps →
    let x := (s.pipe i).slotTx
    ∃ t, repeatExec (.hBrdy p) (max 1 ((x.remaining.toNat + (s.pipe i).mps - 1) / (s.pipe i).mps)) s = .next t ∧
      t.txLog = s.txLog ++ writePackets i (s.pipe i).mps (memRead s.mem x.buf x.remaining.toNat) ∧
      t.cbLog = s.cbLog ++ [⟨x.cb, i, .exact, x.reqLen.toNat⟩] ∧ (t.pipe i).slotTx = Slot.empty ∧ t.mem = s.mem

/-- R126, "Read law": packets that arrive on an armed read, full ones before the last, fill memory with their bytes in
order, no further than the request, and give one callback: `Overrun` if more came than was asked, `Exact` if as much,
else `ShortPacket`. -/
def Obligations.WholeRead : Prop :=
  ∀ (idx : BitVec 8) (p : BitVec 5) (s : State) (i : PipeId) (full : List (List Byte)) (last : List Byte),
    s.pipeOf? idx.toNat = some i → p.toNat = i.val → s.route i = .rx → (s.pipe i).configured = true →
    (s.pipe i).slotRx.state = .armed → (s.pipe i).pid = .buf → (s.pipe i).rxFifo = none →
    (s.port .c).owner = some i → (s.pipe i).mps < 2 ^ 32 → (∀ b ∈ full, b.length = (s.pipe i).mps) →
    last.length ≤ (s.pipe i).mps →
    let x := (s.pipe i).slotRx
    let L := x.remaining.toNat
    let N := full.flatten.length + last.length
    (full = [] ∨ full.flatten.length < L) → (last.length < (s.pipe i).mps ∨ L ≤ N) →
    ∃ t, receive idx p (full ++ [last]) s = .next t ∧
      (∀ k (h : k < (full.flatten ++ last).length), k < L →
        Memory.read t.mem (x.buf + BitVec.ofNat 32 k).toNat = (full.flatten ++ last)[k]) ∧
      (∀ a, ¬ inRange x.buf (min L N) a → Memory.read t.mem a = Memory.read s.mem a) ∧
      t.cbLog = s.cbLog ++
        [⟨x.cb, i, if L < N then .overrun else if L = N then .exact else .shortPacket,
          x.reqLen.toNat - (L - min L N)⟩] ∧
      (t.pipe i).slotRx = Slot.empty ∧ t.txLog = s.txLog

/-! ### Transfers, DMA path -/

/-- R151, R153: an accepted `DMA_START` that does not delegate takes its port, arms the slot, programs the descriptor with
the widest element width that divides the transfer size, and turns the port's DMA request on. -/
def Obligations.DmaStartAccepted : Prop :=
  ∀ (idx : BitVec 8) (b l c : Word) (p : DPort) (s : State) (i : PipeId), s.cfg.wf = true →
    s.pipeOf? idx.toNat = some i → i ≠ 0 → (s.pipe i).configured = true → (s.pipe i).wedged = false →
    b.toNat + l.toNat ≤ 2 ^ 32 → ((s.pipe i).slot (s.xdir i)).state = .idle → s.cfg.strategy ≠ .cpuOnly →
    s.blockSize p ≤ l.toNat → (s.pipe i).ttype = .bulk → s.blockSize p % (s.pipe i).mps = 0 →
    (s.chan p).bound = false → s.CanAcquire i p.fport →
    ∃ v u, Acquired i p.fport s v ∧ DmaAccepted i (s.xdir i) b l c p v u ∧
      exec (.dmaStart idx b l p.fport c) s = .next (u.returns .ok)

/-- R151, R152: what `DMA_START` rejects, in the order it is tested; when it delegates it is `READ` or `WRITE`; a bound
channel is `Busy`; a port that cannot be cleared wedges the pipe. -/
def Obligations.DmaStartOtherwise : Prop :=
  ∀ (idx : BitVec 8) (b l c : Word) (f : FPort) (s : State),
    (s.cfg.numPipes ≤ idx.toNat ∨ f = .c ∨ idx = 0 → exec (.dmaStart idx b l f c) s = .next (s.returns .invalidArg)) ∧
    (∀ (p : DPort) (i : PipeId), f = p.fport → s.pipeOf? idx.toNat = some i → i ≠ 0 →
      ((s.pipe i).configured = false → exec (.dmaStart idx b l f c) s = .next (s.returns .invalidState)) ∧
      ((s.pipe i).configured = true → (s.pipe i).wedged = true →
        exec (.dmaStart idx b l f c) s = .next (s.returns .portWedgedNow)) ∧
      ((s.pipe i).configured = true → (s.pipe i).wedged = false →
        (2 ^ 32 < b.toNat + l.toNat → exec (.dmaStart idx b l f c) s = .next (s.returns .invalidArg)) ∧
        (b.toNat + l.toNat ≤ 2 ^ 32 →
          (((s.pipe i).slot (s.xdir i)).state ≠ .idle →
            exec (.dmaStart idx b l f c) s = .next (s.returns .queueOverrun)) ∧
          (((s.pipe i).slot (s.xdir i)).state = .idle →
            (s.cfg.strategy = .cpuOnly ∨ l.toNat < s.blockSize p ∨ (s.pipe i).ttype ≠ .bulk ∨
              s.blockSize p % (s.pipe i).mps ≠ 0 →
              exec (.dmaStart idx b l f c) s = exec ((s.xdir i).request idx b l c) s) ∧
            (s.cfg.strategy ≠ .cpuOnly → s.blockSize p ≤ l.toNat → (s.pipe i).ttype = .bulk →
              s.blockSize p % (s.pipe i).mps = 0 →
              ((s.chan p).bound = true → exec (.dmaStart idx b l f c) s = .next (s.returns .busy)) ∧
              ((s.chan p).bound = false → ¬ s.CanAcquire i f →
                ∃ v, PortRefused i f s v ∧ exec (.dmaStart idx b l f c) s = .next (v.returns .portWedgedNow)))))))

/-- R242: `DMA_BLOCK`, whole: when the engine can move a block, and that a write block goes out as full packets, a read
block into memory, with the descriptor advanced and the DMA-complete interrupt raised at the end. -/
def Obligations.DmaBlock : Prop :=
  ∀ (p : DPort) (s : State), s.cfg.strategy ≠ .cpuOnly →
    let c := s.chan p
    let enabled := c.bound = true ∧ c.armed = true ∧ c.done = false ∧ 0 < c.crb ∧ (s.port p.fport).dreq = true ∧
      (s.port p.fport).owner = some c.pipe ∧ (s.pipe c.pipe).pid = .buf
    (¬ enabled → exec (.dmaBlock p.fport) s = .refused .notEnabled) ∧
    (enabled → c.dirn = .tx → ∃ t, exec (.dmaBlock p.fport) s = .next t ∧
      t.txLog = s.txLog ++ (List.range (c.blockSize / (s.pipe c.pipe).mps)).map (fun j =>
        TxEntry.mk c.pipe (memRead s.mem (c.addr + BitVec.ofNat 32 (j * (s.pipe c.pipe).mps)) (s.pipe c.pipe).mps)
          false) ∧
      t.chan p =
        { c with
          addr := c.addr + BitVec.ofNat 32 c.blockSize
          crb := c.crb - 1
          lastLen := c.blockSize
          armed := decide (c.crb ≠ 1)
          done := decide (c.crb = 1) } ∧
      (∀ q, q ≠ p → t.chan q = s.chan q) ∧
      { t with txLog := s.txLog, chanD0 := s.chanD0, chanD1 := s.chanD1 } = s) ∧
    (enabled → c.dirn = .rx → ∃ (bs : List Byte) (t : State), exec (.dmaBlock p.fport) s = .next t ∧
      bs = (drawRxBlock c.blockSize s).1 ∧ bs.length ≤ c.blockSize ∧
      (∀ k (h : k < bs.length), k < 2 ^ 32 → bs.length ≤ 2 ^ 32 →
        Memory.read t.mem (c.addr + BitVec.ofNat 32 k).toNat = bs[k]) ∧
      (∀ a, ¬ inRange c.addr bs.length a → Memory.read t.mem a = Memory.read s.mem a) ∧
      t.chan p =
        { c with
          addr := c.addr + BitVec.ofNat 32 bs.length
          crb := c.crb - 1
          lastLen := bs.length
          armed := decide (c.crb ≠ 1 ∧ bs.length = c.blockSize)
          done := decide (c.crb = 1 ∨ bs.length < c.blockSize) } ∧
      (∀ q, q ≠ p → t.chan q = s.chan q) ∧ t.draws = (drawRxBlock c.blockSize s).2.draws ∧
      { t with mem := s.mem, draws := s.draws, chanD0 := s.chanD0, chanD1 := s.chanD1 } = s)

/-- R155: `DMA_IRQ`, whole: it exists only while the DMA-complete interrupt is pending; a stale one only clears it; a
write with blocks remaining faults (R256); else the moved bytes are accounted, and a short read, a remainder, and the end
of the transfer are told apart. -/
def Obligations.DmaComplete : Prop :=
  ∀ (p : DPort) (s : State), s.cfg.strategy ≠ .cpuOnly →
    let c := s.chan p
    let x := (s.pipe c.pipe).slot c.dirn
    let live := c.bound = true ∧ x.state = .dmaArmed ∧ x.path = .dma p
    let whole := c.crb = 0 ∧ c.lastLen = c.blockSize
    (c.done = false → exec (.dmaIrq p.fport) s = .refused .notEnabled) ∧
    (c.done = true → ¬ live →
      exec (.dmaIrq p.fport) s = .next (s.modChan p fun y => { y with done := false })) ∧
    (c.done = true → live → c.dirn = .tx → ¬ whole →
      exec (.dmaIrq p.fport) s = .fault (.dmaIncompleteWrite p)) ∧
    (c.done = true → live → c.dirn = .rx → ¬ whole →
      ∃ w u, Accounted p s w ∧ Completed c.pipe .rx .shortPacket w u ∧ exec (.dmaIrq p.fport) s = .next u) ∧
    (c.done = true → live → whole → c.bytesMoved < x.remaining.toNat → ∃ w, Accounted p s w ∧
      (w.CanAcquire c.pipe .c → c.dirn = .rx ∨ s.cfg.pushFirstOnWrite = false →
        ∃ v u, Acquired c.pipe .c w v ∧ OneShot c.pipe c.dirn v u ∧ exec (.dmaIrq p.fport) s = .next u) ∧
      (w.CanAcquire c.pipe .c → c.dirn = .tx → s.cfg.pushFirstOnWrite = true → (s.port .c).stage = [] →
        ∃ v y u, Acquired c.pipe .c w v ∧ OneShot c.pipe c.dirn v y ∧ ChunkWritten c.pipe y u ∧
          exec (.dmaIrq p.fport) s = .next u) ∧
      (¬ w.CanAcquire c.pipe .c →
        ∃ v u, PortRefused c.pipe .c w v ∧ Terminated c.pipe .portWedged v u ∧ exec (.dmaIrq p.fport) s = .next u)) ∧
    (c.done = true → live → whole → x.remaining.toNat ≤ c.bytesMoved → ∃ w, Accounted p s w ∧
      (c.dirn = .rx → ∃ u, Completed c.pipe .rx .exact w u ∧ exec (.dmaIrq p.fport) s = .next u) ∧
      (c.dirn = .tx → w.CanAcquire c.pipe p.fport → (s.port p.fport).stage = [] →
        ∃ v u, Acquired c.pipe p.fport w v ∧
          Completed c.pipe .tx .exact { v with txLog := v.txLog ++ [⟨c.pipe, [], true⟩] } u ∧
          exec (.dmaIrq p.fport) s = .next u) ∧
      (c.dirn = .tx → ¬ w.CanAcquire c.pipe p.fport →
        ∃ v u, PortRefused c.pipe p.fport w v ∧ Terminated c.pipe .portWedged v u ∧
          exec (.dmaIrq p.fport) s = .next u))

/-- R158 for writes, with R156: from an armed DMA write of `L` bytes in blocks of `B`, the engine's blocks, `DMA_IRQ` and
the one-shot remainder put on `tx_log` exactly what the CPU path puts there (`WholeWrite`), and one `Exact` callback counts
all `L` bytes. -/
def Obligations.DmaWholeWrite : Prop :=
  ∀ (p : DPort) (e : BitVec 5) (s : State) (i : PipeId),
    s.cfg.strategy ≠ .cpuOnly → s.cfg.pushFirstOnWrite = false → s.pipeOf? e.toNat = some i → i ≠ 0 →
    s.xdir i = .tx → (s.pipe i).slotTx.state = .dmaArmed → (s.pipe i).slotTx.path = .dma p → (s.pipe i).pid = .buf →
    (s.chan p).bound = true → (s.chan p).pipe = i → (s.chan p).dirn = .tx → (s.chan p).armed = true →
    (s.chan p).done = false → (s.chan p).addr = (s.pipe i).slotTx.buf →
    (s.port p.fport).dreq = true → (s.port p.fport).owner = some i → (s.port p.fport).stage = [] →
    (s.port .c).stage = [] → (s.port .c).owner ≠ some i → (drawClearPolls s).1 ≤ s.cfg.portClearMaxSpin →
    1 ≤ (s.chan p).blockSize → (s.chan p).blockSize % (s.pipe i).mps = 0 →
    let x := (s.pipe i).slotTx
    let L := x.remaining.toNat
    let m := (s.pipe i).mps
    let n := L / (s.chan p).blockSize
    let r := L % (s.chan p).blockSize
    1 ≤ n → (s.chan p).blockCount = n → (s.chan p).crb = n →
    ∃ t1 t2 t, repeatExec (.dmaBlock p.fport) n s = .next t1 ∧ exec (.dmaIrq p.fport) t1 = .next t2 ∧
      repeatExec (.hBrdy e) ((r + m - 1) / m) t2 = .next t ∧
      t.txLog = s.txLog ++ writePackets i m (memRead s.mem x.buf L) ∧
      t.cbLog = s.cbLog ++ [⟨x.cb, i, .exact, x.reqLen.toNat⟩] ∧ (t.pipe i).slotTx = Slot.empty ∧ t.mem = s.mem

/-! ### Host link -/

/-- R171, R179: the attach handler starts detection on a detached port only; the line-change handler records a wake
request on a suspended port only; neither changes anything else. -/
def Obligations.AttachAndLineChange : Prop :=
  ∀ (b : BitVec 3) (k : PortId) (s : State), s.cfg.mode = .host → s.portOf? b.toNat = some k →
    ((s.link k).state ≠ .detached → exec (.hAttach b) s = .next s) ∧
    ((s.link k).state = .detached → ∃ t, exec (.hAttach b) s = .next t ∧
      t.link k = { s.link k with state := .attachDetecting } ∧ t.Gated k ∧ OnlyLink k s t ∧ t.evLog = s.evLog ∧
      t.timeLog = s.timeLog ∧ t.ret = s.ret ∧ t.draws = s.draws) ∧
    ((s.link k).state ≠ .suspended → exec (.hLinechg b) s = .next s) ∧
    ((s.link k).state = .suspended → ∃ t, exec (.hLinechg b) s = .next t ∧
      t.link k = { s.link k with wakeReq := true } ∧ (∀ x, t.enb x = s.enb x) ∧ OnlyLink k s t ∧
      t.evLog = s.evLog ∧ t.timeLog = s.timeLog ∧ t.ret = s.ret ∧ t.draws = s.draws)

/-- R172: `LINK_ATTACH_PROCESS`, whole: it reads the line until two consecutive readings agree or the tries are used up,
with the debounce gap before each further reading, and attaches at the agreed speed or goes back to detached. -/
def Obligations.LinkAttachProcess : Prop :=
  ∀ (idx : BitVec 8) (k : PortId) (s : State), s.cfg.mode = .host → s.portOf? idx.toNat = some k →
    ((s.link k).state ≠ .attachDetecting → exec (.linkAttachProcess idx) s = .next (s.returns .invalidState)) ∧
    ((s.link k).state = .attachDetecting → 1 ≤ s.cfg.debounceMaxTries →
      ∃ (n : Nat) (a b : LineState) (t : State), exec (.linkAttachProcess idx) s = .next t ∧
        1 ≤ n ∧ n ≤ s.cfg.debounceMaxTries ∧
        (∀ j < n - 1, (lineReadings (n + 1) s)[j]? ≠ (lineReadings (n + 1) s)[j + 1]?) ∧
        (lineReadings (n + 1) s)[n - 1]? = some a ∧ (lineReadings (n + 1) s)[n]? = some b ∧
        (a = b ∨ n = s.cfg.debounceMaxTries) ∧
        t.ret = some .ok ∧ t.timeLog = s.timeLog ++ List.replicate n (.delay s.cfg.debounceGap) ∧
        (if a = b ∧ a = .lsLow then
          t.link k = { s.link k with state := .lowSpeedAttached, conn := .cLowSpeed } ∧
          t.evLog = s.evLog ++ [⟨.evAttach, k, .sLow⟩]
         else if a = b ∧ a = .lsFull then
          t.link k = { s.link k with state := .fullSpeedAttached, conn := .cFullSpeed } ∧
          t.evLog = s.evLog ++ [⟨.evAttach, k, .sFull⟩]
         else t.link k = { s.link k with state := .detached, conn := .cDetached } ∧ t.evLog = s.evLog) ∧
        t.Gated k ∧ OnlyLink k s t)

/-- R174 with R173: `LINK_BUS_RESET`, whole: reset asserted, a bounded handshake poll with a delay after each reading that
is not done, the recovery interval, and the port is `Active` at the negotiated speed, or at the attach-time speed when the
budget is exhausted; a low-speed device stays at low speed. -/
def Obligations.LinkBusReset : Prop :=
  ∀ (idx : BitVec 8) (k : PortId) (s : State), s.cfg.mode = .host → s.portOf? idx.toNat = some k →
    ((s.link k).state ≠ .lowSpeedAttached → (s.link k).state ≠ .fullSpeedAttached →
      exec (.linkBusReset idx) s = .next (s.returns .invalidState)) ∧
    (∀ att : Speed, ((s.link k).state = .lowSpeedAttached ∧ att = .sLow) ∨
        ((s.link k).state = .fullSpeedAttached ∧ att = .sFull) →
      let hs := handshakeReadings att s.cfg.resetPollMax s
      let v := (hs.findSome? handshakeSpeed).getD att
      ∃ t, exec (.linkBusReset idx) s = .next t ∧ t.ret = some .ok ∧
        t.timeLog = s.timeLog ++ [.delay s.cfg.resetAssertTime] ++
          List.replicate (hs.takeWhile (· = .hsInProgress)).length (.delay s.cfg.resetPollDelay) ++
          [.delay s.cfg.resetRecoveryTime] ∧
        t.link k = { s.link k with
          state := .active
          conn := if v = .sLow then .cLowSpeed else if v = .sFull then .cFullSpeed else .cHighSpeed
          busActive := true
          resetSig := false } ∧
        t.evLog = s.evLog ++ [⟨.evBusResetComplete, k, v⟩] ∧ t.Gated k ∧ OnlyLink k s t ∧
        (att = .sLow → v = .sLow) ∧ (att = .sFull → v = .sFull ∨ v = .sHigh))

/-- R177, R178: `LINK_SUSPEND` and `LINK_RESUME`, whole. -/
def Obligations.LinkSuspendAndResume : Prop :=
  ∀ (idx : BitVec 8) (k : PortId) (s : State), s.cfg.mode = .host → s.portOf? idx.toNat = some k →
    ((s.link k).state ≠ .active → exec (.linkSuspend idx) s = .next (s.returns .invalidState)) ∧
    ((s.link k).state = .active → ∃ t, exec (.linkSuspend idx) s = .next t ∧ t.ret = some .ok ∧
      t.link k = { s.link k with state := .suspended, busActive := false, suspended := true, wakeReq := false } ∧
      t.evLog = s.evLog ++ [⟨.evSuspend, k, speedOf (s.link k).conn⟩] ∧ t.timeLog = s.timeLog ∧ t.draws = s.draws ∧
      t.Gated k ∧ OnlyLink k s t) ∧
    ((s.link k).state ≠ .suspended → exec (.linkResume idx) s = .next (s.returns .invalidState)) ∧
    ((s.link k).state = .suspended → ∃ t, exec (.linkResume idx) s = .next t ∧ t.ret = some .ok ∧
      t.link k = { s.link k with
        state := .active, busActive := true, suspended := false, wakeReq := false, resumeSig := false } ∧
      t.evLog = s.evLog ++ [⟨.evResume, k, speedOf (s.link k).conn⟩] ∧
      t.timeLog = s.timeLog ++ [.delay s.cfg.resumeSettleTime] ∧ t.draws = s.draws ∧ t.Gated k ∧ OnlyLink k s t)

/-- R176: `LINK_SET_ADDRESS`, whole. -/
def Obligations.LinkSetAddress : Prop :=
  ∀ (idx : BitVec 8) (a : BitVec 7) (k : PortId) (s : State), s.cfg.mode = .host → s.portOf? idx.toNat = some k →
    ((s.link k).state ≠ .active → exec (.linkSetAddress idx a) s = .next (s.returns .invalidState)) ∧
    ((s.link k).state = .active → (∃ j : PortId, j ≠ k ∧ j.val < s.cfg.numPhysPorts ∧ (s.link j).dev = some a) →
      exec (.linkSetAddress idx a) s = .next (s.returns .invalidArg)) ∧
    ((s.link k).state = .active → (¬ ∃ j : PortId, j ≠ k ∧ j.val < s.cfg.numPhysPorts ∧ (s.link j).dev = some a) →
      ∃ t, exec (.linkSetAddress idx a) s = .next t ∧ t.ret = some .ok ∧
        t.link k = { s.link k with dev := some a } ∧ (∀ x, t.enb x = s.enb x) ∧ t.evLog = s.evLog ∧
        t.timeLog = s.timeLog ∧ t.draws = s.draws ∧ OnlyLink k s t)

/-- R175 with R108 and R130: the detach handler: every configured pipe with the device's address ends what is outstanding
with `Stopped` and is released, in ascending order, pipe 0 falling back to address 0; the channels and FIFO ports of the
pipes that were busy are torn down and cleared, or the pipe is wedged, and every other channel and FIFO port, that of an
idle released pipe too, is as it was; the physical port goes back to detached; no other pipe and no other port changes. -/
def Obligations.Detach : Prop :=
  ∀ (b : BitVec 3) (k : PortId) (s : State), s.cfg.mode = .host → s.portOf? b.toNat = some k →
    ((s.link k).state = .detached ∨ (s.link k).state = .attachDetecting → exec (.hDetach b) s = .next s) ∧
    ((s.link k).state ≠ .detached → (s.link k).state ≠ .attachDetecting →
      let hit := fun j : PipeId => decide (j.val < s.cfg.numPipes) && (s.pipe j).configured &&
        decide ((s.pipe j).devaddr = some ((s.link k).dev.getD 0))
      ∃ t, exec (.hDetach b) s = .next t ∧
        (∀ j, hit j = true → t.pipe j =
          { s.pipe j with
            slotRx := if (s.pipe j).slotRx.state = .idle then (s.pipe j).slotRx else Slot.empty
            slotTx := if (s.pipe j).slotTx.state = .idle then (s.pipe j).slotTx else Slot.empty
            wedged := (t.pipe j).wedged
            trncnt := 0
            ignoreCnt := 0
            pid := .nak
            toggle := false
            rxFifo := none
            configured := decide (j = 0)
            devaddr := if j = 0 then some 0 else none } ∧
          ∀ x : Source, x.pipe? = some j → t.enb x = false ∧ t.sts x = false) ∧
        (∀ j, hit j = false → t.pipe j = s.pipe j ∧
          ∀ x : Source, x.pipe? = some j → t.enb x = s.enb x ∧ t.sts x = s.sts x) ∧
        CutOff (fun j => hit j && s.busy j) s t ∧
        t.cbLog = s.cbLog ++ allPipes.flatMap (fun j => if hit j = true then endings j .stopped s else []) ∧
        t.link k = { s.link k with
          state := .detached, conn := .cDetached, suspended := false, dev := none, busActive := false,
          wakeReq := false, resetSig := false, resumeSig := false } ∧
        (∀ j, j ≠ k → t.link j = s.link j) ∧ t.Gated k ∧
        (∀ x : Source, x.pipe? = none → t.sts x = s.sts x ∧ (x.port? ≠ some k → t.enb x = s.enb x)) ∧
        t.evLog = s.evLog ++ [⟨.evDetach, k, .sNone⟩] ∧ t.timeLog = s.timeLog ∧ t.mem = s.mem ∧ t.txLog = s.txLog ∧
        t.fifoLog = s.fifoLog ∧ t.setupLog = s.setupLog ∧ t.ctrl = s.ctrl ∧ t.ret = s.ret ∧ t.cfg = s.cfg ∧
        t.inbox = s.inbox)

/-! ### Peripheral requests -/

/-- R191: the setup handler, whole: from any state it ends an unfinished data stage with `Stopped`, hands the packet over
and starts a new request. -/
def Obligations.SetupReceived : Prop :=
  ∀ s : State, s.cfg.mode = .peripheral → ∃ v t, Ended 0 .stopped s v ∧ exec .hSetup s = .next t ∧
    t.pipe 0 = { v.pipe 0 with pid := .nak } ∧ (∀ j, j ≠ 0 → t.pipe j = v.pipe j) ∧
    t.ctrl = { state := .cSetupReceived, setup := s.ctrl.setup, dataCb := 0, statusEn := false } ∧
    t.setupLog = s.setupLog ++ [s.ctrl.setup] ∧
    { t with pipes := v.pipes, ctrl := v.ctrl, setupLog := v.setupLog } = v

/-- R193, R192: `CTRL_ACK`, whole; `wlen` is bytes 6 and 7 of the setup packet (R190). -/
def Obligations.CtrlAck : Prop :=
  ∀ s : State, s.cfg.mode = .peripheral →
    let wlen := s.ctrl.setup[6].toNat + 256 * s.ctrl.setup[7].toNat
    (s.ctrl.state ≠ .cSetupReceived ∨ wlen ≠ 0 → exec .ctrlAck s = .next (s.returns .invalidState)) ∧
    (s.ctrl.state = .cSetupReceived → wlen = 0 → ∃ t, exec .ctrlAck s = .next t ∧ t.ret = some .ok ∧
      t.ctrl = { s.ctrl with statusEn := true, state := .cStatusStage } ∧
      t.pipe 0 = { s.pipe 0 with pid := .buf } ∧ (∀ j, j ≠ 0 → t.pipe j = s.pipe j) ∧
      { t with pipes := s.pipes, ctrl := s.ctrl, ret := s.ret } = s)

/-- R194, R197: `CTRL_STALL` and the protocol-error handler, whole: what is outstanding on pipe 0 ends (`Stopped`,
`Stall`), and the request is stalled. -/
def Obligations.CtrlStallAndSeqErr : Prop :=
  ∀ s : State, s.cfg.mode = .peripheral →
    (∃ v t : State, Ended 0 .stopped s v ∧ exec .ctrlStall s = .next (t.returns .ok) ∧
      t.pipe 0 = { v.pipe 0 with pid := .stall } ∧ (∀ j, j ≠ 0 → t.pipe j = v.pipe j) ∧
      t.ctrl = { s.ctrl with statusEn := false, state := .cStalled } ∧
      { t with pipes := v.pipes, ctrl := v.ctrl } = v) ∧
    (∃ v t : State, Ended 0 .stall s v ∧ exec .hSeqerr s = .next t ∧
      t.pipe 0 = { v.pipe 0 with pid := .stall } ∧ (∀ j, j ≠ 0 → t.pipe j = v.pipe j) ∧
      t.ctrl = { s.ctrl with statusEn := false, state := .cStalled } ∧
      { t with pipes := v.pipes, ctrl := v.ctrl } = v)

/-- R195, R190: `CTRL_DATA`, whole: legal only for a data-stage request just received; then it is the submission of its
data phase on pipe 0, in the direction the setup packet gives; if that is accepted, the request is in its data stage. -/
def Obligations.CtrlData : Prop :=
  ∀ (b l c : Word) (s : State), s.cfg.mode = .peripheral → 0 < s.cfg.numPipes →
    let wlen := s.ctrl.setup[6].toNat + 256 * s.ctrl.setup[7].toNat
    let d := if s.ctrl.setup[0].getLsbD 7 then Dir.tx else Dir.rx
    (s.ctrl.state ≠ .cSetupReceived ∨ wlen = 0 → exec (.ctrlData b l c) s = .next (s.returns .invalidState)) ∧
    (s.ctrl.state = .cSetupReceived → wlen ≠ 0 → ∃ u, exec (d.request 0 b l c) s = .next u ∧
      (u.ret ≠ some .ok → exec (.ctrlData b l c) s = .next u) ∧
      (u.ret = some .ok →
        exec (.ctrlData b l c) s = .next { u with ctrl := { u.ctrl with dataCb := c, state := .cDataStage } }) ∧
      ((s.pipe 0).configured = true → (s.pipe 0).wedged = false → b.toNat + l.toNat ≤ 2 ^ 32 →
        ((s.pipe 0).slot d).state = .idle → s.CanAcquire 0 .c → u.ret = some .ok))

/-- R196: the end of the status stage, whole. -/
def Obligations.StatusStageDone : Prop :=
  ∀ s : State, s.cfg.mode = .peripheral →
    (s.ctrl.state ≠ .cStatusStage → exec .hStsdone s = .next s) ∧
    (s.ctrl.state = .cStatusStage → ∃ t, exec .hStsdone s = .next t ∧
      t.ctrl = { s.ctrl with state := .cIdle, statusEn := false } ∧ t.pipe 0 = { s.pipe 0 with pid := .nak } ∧
      (∀ j, j ≠ 0 → t.pipe j = s.pipe j) ∧ { t with pipes := s.pipes, ctrl := s.ctrl } = s)

/-- R199: the transition table of `ctrl.state`: whatever operation runs (`USB_IRQ` apart, which runs handlers one after
another), the state stays or takes one of the listed transitions. -/
def Obligations.CtrlTransitions : Prop :=
  ∀ (i : Instr) (s t : State), exec i s = .next t → i ≠ .usbIrq → t.ctrl.state ≠ s.ctrl.state →
    (i = .hSetup ∧ t.ctrl.state = .cSetupReceived) ∨
    (i = .ctrlAck ∧ s.ctrl.state = .cSetupReceived ∧ s.ctrl.wlen = 0 ∧ t.ctrl.state = .cStatusStage) ∨
    (∃ b l c, i = .ctrlData b l c ∧ s.ctrl.state = .cSetupReceived ∧ 0 < s.ctrl.wlen ∧ t.ret = some .ok ∧
      t.ctrl.state = .cDataStage) ∨
    (s.ctrl.state = .cDataStage ∧ ∃ e ∈ t.cbLog.drop s.cbLog.length, e.pipe = 0 ∧
      t.ctrl.state = if e.result = .exact ∨ e.result = .shortPacket then .cStatusStage else .cStalled) ∨
    (i = .hStsdone ∧ s.ctrl.state = .cStatusStage ∧ t.ctrl.state = .cIdle) ∨
    ((i = .ctrlStall ∨ i = .hSeqerr) ∧ t.ctrl.state = .cStalled)

/-! ### Interrupt dispatcher -/

/-- R210, R211, R212, R213: `USB_IRQ` exists exactly while some source is pending and enabled; it reads the registers in
order, each when its turn comes, and runs the handlers of the bits found set in ascending order, each cleared before or
after as the register's sensitivity says. -/
def Obligations.UsbIrq : Prop :=
  ∀ s : State, (s.irqAsserted = true ↔ ∃ x, s.sts x = true ∧ s.enb x = true) ∧
    (s.irqAsserted = false → exec .usbIrq s = .refused .notEnabled) ∧
    (s.irqAsserted = true → PipeInv s → LinkInv s → CtrlInv s →
      ∃ s1 s2 s3 s4 t, Deliveries s (s.bitmap .brdy) s1 ∧ Deliveries s1 (s1.bitmap .bemp) s2 ∧
        Deliveries s2 (s2.bitmap .nrdy) s3 ∧ Deliveries s3 (s3.bitmap .link) s4 ∧
        Deliveries s4 (s4.bitmap .ctrl) t ∧ exec .usbIrq s = .next t)

/-- R213: "the two orders give the same final state": a handler that runs before its status bit is cleared leaves what it
leaves when it runs after. -/
def Obligations.ClearOrderIrrelevant : Prop :=
  ∀ (x : Source) (s : State), exec x.instr (s.setSts x false) = mapNext (·.setSts x false) (exec x.instr s)

/-- R181: no operation outside the host-link family (nor `USB_IRQ`, which runs its handlers) reads or writes a link
record: with any link records it does the same. -/
def Obligations.TransfersIgnoreLink : Prop :=
  ∀ (i : Instr) (s : State) (l : Vector Link 2), i.hostOnly = false → i ≠ .usbIrq →
    exec i { s with links := l } = mapNext (fun t => { t with links := l }) (exec i s)

/-! ### Environment steps -/

/-- R231 to R235: the environment steps about a pipe: each exists exactly while it is enabled, and sets one status bit,
with the packet or the stall it stands for. (That every toggle bit may change at the same step is R23 and R244.) -/
def Obligations.HwPipeSteps : Prop :=
  ∀ (idx : BitVec 8) (s : State) (i : PipeId), s.pipeOf? idx.toNat = some i →
    (∀ bs : List Byte, bs.length < 2 ^ 32 →
      if (s.pipe i).configured = true ∧ s.route i = .rx ∧ (s.pipe i).slotRx.state = .armed ∧
          (s.pipe i).pid = .buf ∧ (s.pipe i).rxFifo = none ∧ bs.length ≤ (s.pipe i).mps then
        ∃ t, exec (.hwRxPacket idx bs) s = .next t ∧ HwStep (.brdy i) s t ∧ t.ctrl = s.ctrl ∧
          ∀ j, (t.pipe j).SameButToggle (if j = i then { s.pipe i with rxFifo := some bs } else s.pipe j)
      else exec (.hwRxPacket idx bs) s = .refused .notEnabled) ∧
    (if (s.pipe i).configured = true ∧ s.route i = .tx ∧ (s.pipe i).slotTx.state = .armed ∧
        (s.pipe i).pid = .buf ∧ s.sts (.brdy i) = false then
      ∃ t, exec (.hwTxReady idx) s = .next t ∧ HwStep (.brdy i) s t ∧ t.ctrl = s.ctrl ∧
        ∀ j, (t.pipe j).SameButToggle (s.pipe j)
     else exec (.hwTxReady idx) s = .refused .notEnabled) ∧
    (if (s.pipe i).configured = true ∧ ((s.pipe i).slot (s.route i)).state ≠ .idle ∧ (s.pipe i).pid = .buf then
      (∃ t, exec (.hwNotReady idx) s = .next t ∧ HwStep (.nrdy i) s t ∧ t.ctrl = s.ctrl ∧
        ∀ j, (t.pipe j).SameButToggle (s.pipe j)) ∧
      (∃ t, exec (.hwStall idx) s = .next t ∧ HwStep (.nrdy i) s t ∧ t.ctrl = s.ctrl ∧
        ∀ j, (t.pipe j).SameButToggle (if j = i then { s.pipe i with pid := .stall } else s.pipe j))
     else
      exec (.hwNotReady idx) s = .refused .notEnabled ∧ exec (.hwStall idx) s = .refused .notEnabled) ∧
    (if (s.pipe i).configured = true then
      ∃ t, exec (.hwBufEmpty idx) s = .next t ∧ HwStep (.bemp i) s t ∧ t.ctrl = s.ctrl ∧
        ∀ j, (t.pipe j).SameButToggle (s.pipe j)
     else exec (.hwBufEmpty idx) s = .refused .notEnabled)

/-- R236 to R241: the environment steps about a physical port and about the control endpoint. (That every toggle bit may
change at the same step is R23 and R244.) -/
def Obligations.HwLinkAndCtrlSteps : Prop :=
  (∀ (idx : BitVec 8) (s : State) (k : PortId), s.cfg.mode = .host → s.portOf? idx.toNat = some k →
    (∃ t, exec (.hwAttach idx) s = .next t ∧ HwStep (.attach k) s t ∧ t.ctrl = s.ctrl ∧
      ∀ j, (t.pipe j).SameButToggle (s.pipe j)) ∧
    (∃ t, exec (.hwDetach idx) s = .next t ∧ HwStep (.detach k) s t ∧ t.ctrl = s.ctrl ∧
      ∀ j, (t.pipe j).SameButToggle (s.pipe j)) ∧
    (∃ t, exec (.hwLinechg idx) s = .next t ∧ HwStep (.linechg k) s t ∧ t.ctrl = s.ctrl ∧
      ∀ j, (t.pipe j).SameButToggle (s.pipe j))) ∧
  (∀ s : State, s.cfg.mode = .peripheral →
    (∀ v : Vector Byte 8, ∃ t, exec (.hwSetup v.toList) s = .next t ∧ HwStep .setup s t ∧
      t.ctrl = { s.ctrl with setup := v } ∧ ∀ j, (t.pipe j).SameButToggle (s.pipe j)) ∧
    (if s.ctrl.statusEn = true then
      ∃ t, exec .hwStatusDone s = .next t ∧ HwStep .stsdone s t ∧ t.ctrl = s.ctrl ∧
        ∀ j, (t.pipe j).SameButToggle (s.pipe j)
     else exec .hwStatusDone s = .refused .notEnabled) ∧
    (∃ t, exec .hwSeqErr s = .next t ∧ HwStep .seqerr s t ∧ t.ctrl = s.ctrl ∧
      ∀ j, (t.pipe j).SameButToggle (s.pipe j)))

/-! ### FIFO accesses -/

/-- R64, R66, R67: how `n` bytes pass a FIFO port: whole words of `w` bytes with the register value of the configured byte
order, then one byte access for each byte left over, in order. -/
def Obligations.FifoAccesses : Prop :=
  ∀ (p : FPort) (rw : Rw) (w : Nat) (bs : List Byte), 1 ≤ w →
    (∀ e, (fifoSplit p rw w e bs).length = bs.length / w + bs.length % w) ∧
    (∀ j < bs.length / w,
      (fifoSplit p rw w .little bs)[j]? =
        some ⟨p, rw, w, ((List.range w).map fun k => (bs.getD (j * w + k) 0).toNat * 2 ^ (8 * k)).sum⟩ ∧
      (fifoSplit p rw w .big bs)[j]? =
        some ⟨p, rw, w, ((List.range w).map fun k => (bs.getD (j * w + k) 0).toNat * 2 ^ (8 * (w - 1 - k))).sum⟩) ∧
    (∀ e, ∀ j < bs.length % w,
      (fifoSplit p rw w e bs)[bs.length / w + j]? = some ⟨p, rw, 1, (bs.getD (bs.length / w * w + j) 0).toNat⟩)
end

