-- ==== Sys2Proof/Laws/Decode.lean ====
section
/-! SUPPORT. The fields of the packed words (R81), one lemma per field, and the field codes both ways. -/

namespace Sys2Proof

@[simp] theorem TType.ofCode_code (t : TType) : TType.ofCode t.code = t := by cases t <;> rfl

@[simp] theorem UsbDir.ofCode_code (d : UsbDir) : UsbDir.ofCode d.code = d := by cases d <;> rfl

@[simp] theorem FPort.ofCode?_code (p : FPort) : FPort.ofCode? p.code = some p := by cases p <;> rfl

theorem TType.code_ofCode (v : BitVec 2) : (TType.ofCode v).code = v := by revert v; decide

theorem UsbDir.code_ofCode (v : BitVec 1) : (UsbDir.ofCode v).code = v := by revert v; decide

theorem FPort.code_ofCode? {v : BitVec 2} {p : FPort} (h : FPort.ofCode? v = some p) : p.code = v := by
  revert v p; decide

section Pack

variable (op idx : BitVec 8) (f t : BitVec 2) (d : BitVec 1) (mps : BitVec 11) (dev : BitVec 7) (dav : BitVec 1)

@[simp] theorem pack_op : (packW0 op idx f t d).extractLsb' 0 8 = op := by
  simp only [packW0]
  apply BitVec.eq_of_getLsbD_eq
  intro j hj
  interval_cases j <;> simp

@[simp] theorem pack_idx : (packW0 op idx f t d).extractLsb' 8 8 = idx := by
  simp only [packW0]
  apply BitVec.eq_of_getLsbD_eq
  intro j hj
  interval_cases j <;> simp

@[simp] theorem pack_fport : (packW0 op idx f t d).extractLsb' 16 2 = f := by
  simp only [packW0]
  apply BitVec.eq_of_getLsbD_eq
  intro j hj
  interval_cases j <;> simp

@[simp] theorem pack_ttype : (packW0 op idx f t d).extractLsb' 18 2 = t := by
  simp only [packW0]
  apply BitVec.eq_of_getLsbD_eq
  intro j hj
  interval_cases j <;> simp

@[simp] theorem pack_dir : (packW0 op idx f t d).extractLsb' 20 1 = d := by
  simp only [packW0]
  apply BitVec.eq_of_getLsbD_eq
  intro j hj
  interval_cases j; simp

@[simp] theorem pack_rsv0 : (packW0 op idx f t d).extractLsb' 21 11 = 0 := by
  simp only [packW0]
  apply BitVec.eq_of_getLsbD_eq
  intro j hj
  interval_cases j <;> simp

@[simp] theorem pack_mps : (packW4 mps dev dav).extractLsb' 0 11 = mps := by
  simp only [packW4]
  apply BitVec.eq_of_getLsbD_eq
  intro j hj
  interval_cases j <;> simp

@[simp] theorem pack_devaddr : (packW4 mps dev dav).extractLsb' 11 7 = dev := by
  simp only [packW4]
  apply BitVec.eq_of_getLsbD_eq
  intro j hj
  interval_cases j <;> simp

@[simp] theorem pack_dav : (packW4 mps dev dav).extractLsb' 18 1 = dav := by
  simp only [packW4]
  apply BitVec.eq_of_getLsbD_eq
  intro j hj
  interval_cases j; simp

@[simp] theorem pack_rsv4 : (packW4 mps dev dav).extractLsb' 19 13 = 0 := by
  simp only [packW4]
  apply BitVec.eq_of_getLsbD_eq
  intro j hj
  interval_cases j <;> simp

@[simp] theorem pack_format : (packW0 op idx f t d).extractLsb' 6 2 = op.extractLsb' 6 2 := by
  simp only [packW0]
  apply BitVec.eq_of_getLsbD_eq
  intro j hj
  interval_cases j <;> simp

end Pack

/-- A word without reserved bits is the packing of its fields. -/
theorem packW0_eta (w : Word) (h : w.extractLsb' 21 11 = 0) :
    packW0 (w.extractLsb' 0 8) (w.extractLsb' 8 8) (w.extractLsb' 16 2) (w.extractLsb' 18 2) (w.extractLsb' 20 1) =
      w := by
  have h : ∀ j < 11, w.getLsbD (21 + j) = false := fun j hj => by
    have := congrArg (fun v => BitVec.getLsbD v j) h
    simpa [hj] using this
  simp only [packW0]
  apply BitVec.eq_of_getLsbD_eq
  intro j hj
  by_cases hr : 21 ≤ j
  · have := h (j - 21) (by omega)
    rw [show 21 + (j - 21) = j by omega] at this
    rw [this]
    interval_cases j <;> simp
  · interval_cases j <;> simp

/-- The same for `w4`. -/
theorem packW4_eta (w : Word) (h : w.extractLsb' 19 13 = 0) :
    packW4 (w.extractLsb' 0 11) (w.extractLsb' 11 7) (w.extractLsb' 18 1) = w := by
  have h : ∀ j < 13, w.getLsbD (19 + j) = false := fun j hj => by
    have := congrArg (fun v => BitVec.getLsbD v j) h
    simpa [hj] using this
  simp only [packW4]
  apply BitVec.eq_of_getLsbD_eq
  intro j hj
  by_cases hr : 19 ≤ j
  · have := h (j - 19) (by omega)
    rw [show 19 + (j - 19) = j by omega] at this
    rw [this]
    interval_cases j <;> simp
  · interval_cases j <;> simp

end Sys2Proof
end

