-- ==== Sys2Proof/Laws/State.lean ====
section
/-! SUPPORT. What each named update of the state does to each field: one lemma per field per update. Later proofs cite
these and never unfold an update. -/

namespace Sys2Proof.Machine

/-! ### One bit of a register -/

theorem getLsbD_setBit {w : Nat} (r : BitVec w) (i j : Nat) (b : Bool) (h : j < w) :
    (setBit r i b).getLsbD j = if i = j then b else r.getLsbD j := by
  unfold setBit
  by_cases e : i = j
  · subst e; cases b <;> simp [h]
  · have e' : ¬ j = i := fun x => e x.symm
    cases b <;> simp [h, e, e']

theorem setBit_self {w : Nat} (r : BitVec w) (i : Nat) : setBit r i (r.getLsbD i) = r := by
  apply BitVec.eq_of_getLsbD_eq
  intro j hj
  rw [getLsbD_setBit _ _ _ _ hj]
  split
  · rename_i h; rw [h]
  · rfl

/-! ### The bits of the sources -/

/-- Width of a register. -/
def EvtReg.width : EvtReg → Nat
  | .brdy => 16
  | .bemp => 16
  | .nrdy => 16
  | .link => 8
  | .ctrl => 4

theorem Source.bit_lt (x : Source) : x.bit < x.reg.width := by
  cases x <;> simp [Source.bit, Source.reg, EvtReg.width] <;> omega

theorem bit_inj {x y : Source} (h : x.reg = y.reg) : x.bit = y.bit ↔ x = y := by
  cases x <;> cases y <;> simp_all [Source.reg, Source.bit, Fin.ext_iff] <;> omega

/-! ### `modPipe` -/

@[simp] theorem modPipe_cfg (s : State) (i : PipeId) (f : Pipe → Pipe) : (s.modPipe i f).cfg = s.cfg := rfl

@[simp] theorem modPipe_pipe (s : State) (i : PipeId) (f : Pipe → Pipe) (j : PipeId) : (s.modPipe i f).pipe j = if i = j then f (s.pipe i) else s.pipe j := by
  simp [State.pipe, State.modPipe, Vector.getElem_set, Fin.ext_iff]

@[simp] theorem modPipe_port (s : State) (i : PipeId) (f : Pipe → Pipe) (q : FPort) : (s.modPipe i f).port q = s.port q := rfl

@[simp] theorem modPipe_chan (s : State) (i : PipeId) (f : Pipe → Pipe) (q : DPort) : (s.modPipe i f).chan q = s.chan q := rfl

@[simp] theorem modPipe_link (s : State) (i : PipeId) (f : Pipe → Pipe) (j : PortId) : (s.modPipe i f).link j = s.link j := rfl

@[simp] theorem modPipe_ctrl (s : State) (i : PipeId) (f : Pipe → Pipe) : (s.modPipe i f).ctrl = s.ctrl := rfl

@[simp] theorem modPipe_sts (s : State) (i : PipeId) (f : Pipe → Pipe) (y : Source) : (s.modPipe i f).sts y = s.sts y := rfl

@[simp] theorem modPipe_enb (s : State) (i : PipeId) (f : Pipe → Pipe) (y : Source) : (s.modPipe i f).enb y = s.enb y := rfl

@[simp] theorem modPipe_mem (s : State) (i : PipeId) (f : Pipe → Pipe) : (s.modPipe i f).mem = s.mem := rfl

@[simp] theorem modPipe_txLog (s : State) (i : PipeId) (f : Pipe → Pipe) : (s.modPipe i f).txLog = s.txLog := rfl

@[simp] theorem modPipe_fifoLog (s : State) (i : PipeId) (f : Pipe → Pipe) : (s.modPipe i f).fifoLog = s.fifoLog := rfl

@[simp] theorem modPipe_evLog (s : State) (i : PipeId) (f : Pipe → Pipe) : (s.modPipe i f).evLog = s.evLog := rfl

@[simp] theorem modPipe_timeLog (s : State) (i : PipeId) (f : Pipe → Pipe) : (s.modPipe i f).timeLog = s.timeLog := rfl

@[simp] theorem modPipe_cbLog (s : State) (i : PipeId) (f : Pipe → Pipe) : (s.modPipe i f).cbLog = s.cbLog := rfl

@[simp] theorem modPipe_setupLog (s : State) (i : PipeId) (f : Pipe → Pipe) : (s.modPipe i f).setupLog = s.setupLog := rfl

@[simp] theorem modPipe_ret (s : State) (i : PipeId) (f : Pipe → Pipe) : (s.modPipe i f).ret = s.ret := rfl

@[simp] theorem modPipe_draws (s : State) (i : PipeId) (f : Pipe → Pipe) : (s.modPipe i f).draws = s.draws := rfl

@[simp] theorem modPipe_inbox (s : State) (i : PipeId) (f : Pipe → Pipe) : (s.modPipe i f).inbox = s.inbox := rfl

/-! ### `modPort` -/

@[simp] theorem modPort_cfg (s : State) (p : FPort) (f : Port → Port) : (s.modPort p f).cfg = s.cfg := by
  cases p <;> rfl

@[simp] theorem modPort_pipe (s : State) (p : FPort) (f : Port → Port) (j : PipeId) : (s.modPort p f).pipe j = s.pipe j := by
  cases p <;> rfl

@[simp] theorem modPort_port (s : State) (p : FPort) (f : Port → Port) (q : FPort) : (s.modPort p f).port q = if p = q then f (s.port p) else s.port q := by
  cases p <;> cases q <;> simp [State.port, State.modPort]

@[simp] theorem modPort_chan (s : State) (p : FPort) (f : Port → Port) (q : DPort) : (s.modPort p f).chan q = s.chan q := by
  cases p <;> rfl

@[simp] theorem modPort_link (s : State) (p : FPort) (f : Port → Port) (j : PortId) : (s.modPort p f).link j = s.link j := by
  cases p <;> rfl

@[simp] theorem modPort_ctrl (s : State) (p : FPort) (f : Port → Port) : (s.modPort p f).ctrl = s.ctrl := by
  cases p <;> rfl

@[simp] theorem modPort_sts (s : State) (p : FPort) (f : Port → Port) (y : Source) : (s.modPort p f).sts y = s.sts y := by
  cases p <;> rfl

@[simp] theorem modPort_enb (s : State) (p : FPort) (f : Port → Port) (y : Source) : (s.modPort p f).enb y = s.enb y := by
  cases p <;> rfl

@[simp] theorem modPort_mem (s : State) (p : FPort) (f : Port → Port) : (s.modPort p f).mem = s.mem := by
  cases p <;> rfl

@[simp] theorem modPort_txLog (s : State) (p : FPort) (f : Port → Port) : (s.modPort p f).txLog = s.txLog := by
  cases p <;> rfl

@[simp] theorem modPort_fifoLog (s : State) (p : FPort) (f : Port → Port) : (s.modPort p f).fifoLog = s.fifoLog := by
  cases p <;> rfl

@[simp] theorem modPort_evLog (s : State) (p : FPort) (f : Port → Port) : (s.modPort p f).evLog = s.evLog := by
  cases p <;> rfl

@[simp] theorem modPort_timeLog (s : State) (p : FPort) (f : Port → Port) : (s.modPort p f).timeLog = s.timeLog := by
  cases p <;> rfl

@[simp] theorem modPort_cbLog (s : State) (p : FPort) (f : Port → Port) : (s.modPort p f).cbLog = s.cbLog := by
  cases p <;> rfl

@[simp] theorem modPort_setupLog (s : State) (p : FPort) (f : Port → Port) : (s.modPort p f).setupLog = s.setupLog := by
  cases p <;> rfl

@[simp] theorem modPort_ret (s : State) (p : FPort) (f : Port → Port) : (s.modPort p f).ret = s.ret := by
  cases p <;> rfl

@[simp] theorem modPort_draws (s : State) (p : FPort) (f : Port → Port) : (s.modPort p f).draws = s.draws := by
  cases p <;> rfl

@[simp] theorem modPort_inbox (s : State) (p : FPort) (f : Port → Port) : (s.modPort p f).inbox = s.inbox := by
  cases p <;> rfl

/-! ### `modChan` -/

@[simp] theorem modChan_cfg (s : State) (p : DPort) (f : Chan → Chan) : (s.modChan p f).cfg = s.cfg := by
  cases p <;> rfl

@[simp] theorem modChan_pipe (s : State) (p : DPort) (f : Chan → Chan) (j : PipeId) : (s.modChan p f).pipe j = s.pipe j := by
  cases p <;> rfl

@[simp] theorem modChan_port (s : State) (p : DPort) (f : Chan → Chan) (q : FPort) : (s.modChan p f).port q = s.port q := by
  cases p <;> rfl

@[simp] theorem modChan_chan (s : State) (p : DPort) (f : Chan → Chan) (q : DPort) : (s.modChan p f).chan q = if p = q then f (s.chan p) else s.chan q := by
  cases p <;> cases q <;> simp [State.chan, State.modChan]

@[simp] theorem modChan_link (s : State) (p : DPort) (f : Chan → Chan) (j : PortId) : (s.modChan p f).link j = s.link j := by
  cases p <;> rfl

@[simp] theorem modChan_ctrl (s : State) (p : DPort) (f : Chan → Chan) : (s.modChan p f).ctrl = s.ctrl := by
  cases p <;> rfl

@[simp] theorem modChan_sts (s : State) (p : DPort) (f : Chan → Chan) (y : Source) : (s.modChan p f).sts y = s.sts y := by
  cases p <;> rfl

@[simp] theorem modChan_enb (s : State) (p : DPort) (f : Chan → Chan) (y : Source) : (s.modChan p f).enb y = s.enb y := by
  cases p <;> rfl

@[simp] theorem modChan_mem (s : State) (p : DPort) (f : Chan → Chan) : (s.modChan p f).mem = s.mem := by
  cases p <;> rfl

@[simp] theorem modChan_txLog (s : State) (p : DPort) (f : Chan → Chan) : (s.modChan p f).txLog = s.txLog := by
  cases p <;> rfl

@[simp] theorem modChan_fifoLog (s : State) (p : DPort) (f : Chan → Chan) : (s.modChan p f).fifoLog = s.fifoLog := by
  cases p <;> rfl

@[simp] theorem modChan_evLog (s : State) (p : DPort) (f : Chan → Chan) : (s.modChan p f).evLog = s.evLog := by
  cases p <;> rfl

@[simp] theorem modChan_timeLog (s : State) (p : DPort) (f : Chan → Chan) : (s.modChan p f).timeLog = s.timeLog := by
  cases p <;> rfl

@[simp] theorem modChan_cbLog (s : State) (p : DPort) (f : Chan → Chan) : (s.modChan p f).cbLog = s.cbLog := by
  cases p <;> rfl

@[simp] theorem modChan_setupLog (s : State) (p : DPort) (f : Chan → Chan) : (s.modChan p f).setupLog = s.setupLog := by
  cases p <;> rfl

@[simp] theorem modChan_ret (s : State) (p : DPort) (f : Chan → Chan) : (s.modChan p f).ret = s.ret := by
  cases p <;> rfl

@[simp] theorem modChan_draws (s : State) (p : DPort) (f : Chan → Chan) : (s.modChan p f).draws = s.draws := by
  cases p <;> rfl

@[simp] theorem modChan_inbox (s : State) (p : DPort) (f : Chan → Chan) : (s.modChan p f).inbox = s.inbox := by
  cases p <;> rfl

/-! ### `modLink` -/

@[simp] theorem modLink_cfg (s : State) (k : PortId) (f : Link → Link) : (s.modLink k f).cfg = s.cfg := rfl

@[simp] theorem modLink_pipe (s : State) (k : PortId) (f : Link → Link) (j : PipeId) : (s.modLink k f).pipe j = s.pipe j := rfl

@[simp] theorem modLink_port (s : State) (k : PortId) (f : Link → Link) (q : FPort) : (s.modLink k f).port q = s.port q := rfl

@[simp] theorem modLink_chan (s : State) (k : PortId) (f : Link → Link) (q : DPort) : (s.modLink k f).chan q = s.chan q := rfl

@[simp] theorem modLink_link (s : State) (k : PortId) (f : Link → Link) (j : PortId) : (s.modLink k f).link j = if k = j then f (s.link k) else s.link j := by
  simp [State.link, State.modLink, Vector.getElem_set, Fin.ext_iff]

@[simp] theorem modLink_ctrl (s : State) (k : PortId) (f : Link → Link) : (s.modLink k f).ctrl = s.ctrl := rfl

@[simp] theorem modLink_sts (s : State) (k : PortId) (f : Link → Link) (y : Source) : (s.modLink k f).sts y = s.sts y := rfl

@[simp] theorem modLink_enb (s : State) (k : PortId) (f : Link → Link) (y : Source) : (s.modLink k f).enb y = s.enb y := rfl

@[simp] theorem modLink_mem (s : State) (k : PortId) (f : Link → Link) : (s.modLink k f).mem = s.mem := rfl

@[simp] theorem modLink_txLog (s : State) (k : PortId) (f : Link → Link) : (s.modLink k f).txLog = s.txLog := rfl

@[simp] theorem modLink_fifoLog (s : State) (k : PortId) (f : Link → Link) : (s.modLink k f).fifoLog = s.fifoLog := rfl

@[simp] theorem modLink_evLog (s : State) (k : PortId) (f : Link → Link) : (s.modLink k f).evLog = s.evLog := rfl

@[simp] theorem modLink_timeLog (s : State) (k : PortId) (f : Link → Link) : (s.modLink k f).timeLog = s.timeLog := rfl

@[simp] theorem modLink_cbLog (s : State) (k : PortId) (f : Link → Link) : (s.modLink k f).cbLog = s.cbLog := rfl

@[simp] theorem modLink_setupLog (s : State) (k : PortId) (f : Link → Link) : (s.modLink k f).setupLog = s.setupLog := rfl

@[simp] theorem modLink_ret (s : State) (k : PortId) (f : Link → Link) : (s.modLink k f).ret = s.ret := rfl

@[simp] theorem modLink_draws (s : State) (k : PortId) (f : Link → Link) : (s.modLink k f).draws = s.draws := rfl

@[simp] theorem modLink_inbox (s : State) (k : PortId) (f : Link → Link) : (s.modLink k f).inbox = s.inbox := rfl

/-! ### `modCtrl` -/

@[simp] theorem modCtrl_cfg (s : State) (f : Ctrl → Ctrl) : (s.modCtrl f).cfg = s.cfg := rfl

@[simp] theorem modCtrl_pipe (s : State) (f : Ctrl → Ctrl) (j : PipeId) : (s.modCtrl f).pipe j = s.pipe j := rfl

@[simp] theorem modCtrl_port (s : State) (f : Ctrl → Ctrl) (q : FPort) : (s.modCtrl f).port q = s.port q := rfl

@[simp] theorem modCtrl_chan (s : State) (f : Ctrl → Ctrl) (q : DPort) : (s.modCtrl f).chan q = s.chan q := rfl

@[simp] theorem modCtrl_link (s : State) (f : Ctrl → Ctrl) (j : PortId) : (s.modCtrl f).link j = s.link j := rfl

@[simp] theorem modCtrl_ctrl (s : State) (f : Ctrl → Ctrl) : (s.modCtrl f).ctrl = f s.ctrl := rfl

@[simp] theorem modCtrl_sts (s : State) (f : Ctrl → Ctrl) (y : Source) : (s.modCtrl f).sts y = s.sts y := rfl

@[simp] theorem modCtrl_enb (s : State) (f : Ctrl → Ctrl) (y : Source) : (s.modCtrl f).enb y = s.enb y := rfl

@[simp] theorem modCtrl_mem (s : State) (f : Ctrl → Ctrl) : (s.modCtrl f).mem = s.mem := rfl

@[simp] theorem modCtrl_txLog (s : State) (f : Ctrl → Ctrl) : (s.modCtrl f).txLog = s.txLog := rfl

@[simp] theorem modCtrl_fifoLog (s : State) (f : Ctrl → Ctrl) : (s.modCtrl f).fifoLog = s.fifoLog := rfl

@[simp] theorem modCtrl_evLog (s : State) (f : Ctrl → Ctrl) : (s.modCtrl f).evLog = s.evLog := rfl

@[simp] theorem modCtrl_timeLog (s : State) (f : Ctrl → Ctrl) : (s.modCtrl f).timeLog = s.timeLog := rfl

@[simp] theorem modCtrl_cbLog (s : State) (f : Ctrl → Ctrl) : (s.modCtrl f).cbLog = s.cbLog := rfl

@[simp] theorem modCtrl_setupLog (s : State) (f : Ctrl → Ctrl) : (s.modCtrl f).setupLog = s.setupLog := rfl

@[simp] theorem modCtrl_ret (s : State) (f : Ctrl → Ctrl) : (s.modCtrl f).ret = s.ret := rfl

@[simp] theorem modCtrl_draws (s : State) (f : Ctrl → Ctrl) : (s.modCtrl f).draws = s.draws := rfl

@[simp] theorem modCtrl_inbox (s : State) (f : Ctrl → Ctrl) : (s.modCtrl f).inbox = s.inbox := rfl

/-! ### `returns` -/

@[simp] theorem returns_cfg (s : State) (r : Status) : (s.returns r).cfg = s.cfg := rfl

@[simp] theorem returns_pipe (s : State) (r : Status) (j : PipeId) : (s.returns r).pipe j = s.pipe j := rfl

@[simp] theorem returns_port (s : State) (r : Status) (q : FPort) : (s.returns r).port q = s.port q := rfl

@[simp] theorem returns_chan (s : State) (r : Status) (q : DPort) : (s.returns r).chan q = s.chan q := rfl

@[simp] theorem returns_link (s : State) (r : Status) (j : PortId) : (s.returns r).link j = s.link j := rfl

@[simp] theorem returns_ctrl (s : State) (r : Status) : (s.returns r).ctrl = s.ctrl := rfl

@[simp] theorem returns_sts (s : State) (r : Status) (y : Source) : (s.returns r).sts y = s.sts y := rfl

@[simp] theorem returns_enb (s : State) (r : Status) (y : Source) : (s.returns r).enb y = s.enb y := rfl

@[simp] theorem returns_mem (s : State) (r : Status) : (s.returns r).mem = s.mem := rfl

@[simp] theorem returns_txLog (s : State) (r : Status) : (s.returns r).txLog = s.txLog := rfl

@[simp] theorem returns_fifoLog (s : State) (r : Status) : (s.returns r).fifoLog = s.fifoLog := rfl

@[simp] theorem returns_evLog (s : State) (r : Status) : (s.returns r).evLog = s.evLog := rfl

@[simp] theorem returns_timeLog (s : State) (r : Status) : (s.returns r).timeLog = s.timeLog := rfl

@[simp] theorem returns_cbLog (s : State) (r : Status) : (s.returns r).cbLog = s.cbLog := rfl

@[simp] theorem returns_setupLog (s : State) (r : Status) : (s.returns r).setupLog = s.setupLog := rfl

@[simp] theorem returns_ret (s : State) (r : Status) : (s.returns r).ret = some r := rfl

@[simp] theorem returns_draws (s : State) (r : Status) : (s.returns r).draws = s.draws := rfl

@[simp] theorem returns_inbox (s : State) (r : Status) : (s.returns r).inbox = s.inbox := rfl

/-! ### `setToggles` -/

@[simp] theorem setToggles_cfg (s : State) (t : BitVec 16) : (s.setToggles t).cfg = s.cfg := rfl

@[simp] theorem setToggles_pipe (s : State) (t : BitVec 16) (j : PipeId) : (s.setToggles t).pipe j =
    if j.val < s.cfg.numPipes then { s.pipe j with toggle := t.getLsbD j.val } else s.pipe j := by
  simp [State.pipe, State.setToggles]

@[simp] theorem setToggles_port (s : State) (t : BitVec 16) (q : FPort) : (s.setToggles t).port q = s.port q := rfl

@[simp] theorem setToggles_chan (s : State) (t : BitVec 16) (q : DPort) : (s.setToggles t).chan q = s.chan q := rfl

@[simp] theorem setToggles_link (s : State) (t : BitVec 16) (j : PortId) : (s.setToggles t).link j = s.link j := rfl

@[simp] theorem setToggles_ctrl (s : State) (t : BitVec 16) : (s.setToggles t).ctrl = s.ctrl := rfl

@[simp] theorem setToggles_sts (s : State) (t : BitVec 16) (y : Source) : (s.setToggles t).sts y = s.sts y := rfl

@[simp] theorem setToggles_enb (s : State) (t : BitVec 16) (y : Source) : (s.setToggles t).enb y = s.enb y := rfl

@[simp] theorem setToggles_mem (s : State) (t : BitVec 16) : (s.setToggles t).mem = s.mem := rfl

@[simp] theorem setToggles_txLog (s : State) (t : BitVec 16) : (s.setToggles t).txLog = s.txLog := rfl

@[simp] theorem setToggles_fifoLog (s : State) (t : BitVec 16) : (s.setToggles t).fifoLog = s.fifoLog := rfl

@[simp] theorem setToggles_evLog (s : State) (t : BitVec 16) : (s.setToggles t).evLog = s.evLog := rfl

@[simp] theorem setToggles_timeLog (s : State) (t : BitVec 16) : (s.setToggles t).timeLog = s.timeLog := rfl

@[simp] theorem setToggles_cbLog (s : State) (t : BitVec 16) : (s.setToggles t).cbLog = s.cbLog := rfl

@[simp] theorem setToggles_setupLog (s : State) (t : BitVec 16) : (s.setToggles t).setupLog = s.setupLog := rfl

@[simp] theorem setToggles_ret (s : State) (t : BitVec 16) : (s.setToggles t).ret = s.ret := rfl

@[simp] theorem setToggles_draws (s : State) (t : BitVec 16) : (s.setToggles t).draws = s.draws := rfl

@[simp] theorem setToggles_inbox (s : State) (t : BitVec 16) : (s.setToggles t).inbox = s.inbox := rfl

/-! ### `setMem` -/

@[simp] theorem setMem_cfg (s : State) (m : Memory) : (s.setMem m).cfg = s.cfg := rfl

@[simp] theorem setMem_pipe (s : State) (m : Memory) (j : PipeId) : (s.setMem m).pipe j = s.pipe j := rfl

@[simp] theorem setMem_port (s : State) (m : Memory) (q : FPort) : (s.setMem m).port q = s.port q := rfl

@[simp] theorem setMem_chan (s : State) (m : Memory) (q : DPort) : (s.setMem m).chan q = s.chan q := rfl

@[simp] theorem setMem_link (s : State) (m : Memory) (j : PortId) : (s.setMem m).link j = s.link j := rfl

@[simp] theorem setMem_ctrl (s : State) (m : Memory) : (s.setMem m).ctrl = s.ctrl := rfl

@[simp] theorem setMem_sts (s : State) (m : Memory) (y : Source) : (s.setMem m).sts y = s.sts y := rfl

@[simp] theorem setMem_enb (s : State) (m : Memory) (y : Source) : (s.setMem m).enb y = s.enb y := rfl

@[simp] theorem setMem_mem (s : State) (m : Memory) : (s.setMem m).mem = m := rfl

@[simp] theorem setMem_txLog (s : State) (m : Memory) : (s.setMem m).txLog = s.txLog := rfl

@[simp] theorem setMem_fifoLog (s : State) (m : Memory) : (s.setMem m).fifoLog = s.fifoLog := rfl

@[simp] theorem setMem_evLog (s : State) (m : Memory) : (s.setMem m).evLog = s.evLog := rfl

@[simp] theorem setMem_timeLog (s : State) (m : Memory) : (s.setMem m).timeLog = s.timeLog := rfl

@[simp] theorem setMem_cbLog (s : State) (m : Memory) : (s.setMem m).cbLog = s.cbLog := rfl

@[simp] theorem setMem_setupLog (s : State) (m : Memory) : (s.setMem m).setupLog = s.setupLog := rfl

@[simp] theorem setMem_ret (s : State) (m : Memory) : (s.setMem m).ret = s.ret := rfl

@[simp] theorem setMem_draws (s : State) (m : Memory) : (s.setMem m).draws = s.draws := rfl

@[simp] theorem setMem_inbox (s : State) (m : Memory) : (s.setMem m).inbox = s.inbox := rfl

/-! ### `setDraws` -/

@[simp] theorem setDraws_cfg (s : State) (d : Draws) : (s.setDraws d).cfg = s.cfg := rfl

@[simp] theorem setDraws_pipe (s : State) (d : Draws) (j : PipeId) : (s.setDraws d).pipe j = s.pipe j := rfl

@[simp] theorem setDraws_port (s : State) (d : Draws) (q : FPort) : (s.setDraws d).port q = s.port q := rfl

@[simp] theorem setDraws_chan (s : State) (d : Draws) (q : DPort) : (s.setDraws d).chan q = s.chan q := rfl

@[simp] theorem setDraws_link (s : State) (d : Draws) (j : PortId) : (s.setDraws d).link j = s.link j := rfl

@[simp] theorem setDraws_ctrl (s : State) (d : Draws) : (s.setDraws d).ctrl = s.ctrl := rfl

@[simp] theorem setDraws_sts (s : State) (d : Draws) (y : Source) : (s.setDraws d).sts y = s.sts y := rfl

@[simp] theorem setDraws_enb (s : State) (d : Draws) (y : Source) : (s.setDraws d).enb y = s.enb y := rfl

@[simp] theorem setDraws_mem (s : State) (d : Draws) : (s.setDraws d).mem = s.mem := rfl

@[simp] theorem setDraws_txLog (s : State) (d : Draws) : (s.setDraws d).txLog = s.txLog := rfl

@[simp] theorem setDraws_fifoLog (s : State) (d : Draws) : (s.setDraws d).fifoLog = s.fifoLog := rfl

@[simp] theorem setDraws_evLog (s : State) (d : Draws) : (s.setDraws d).evLog = s.evLog := rfl

@[simp] theorem setDraws_timeLog (s : State) (d : Draws) : (s.setDraws d).timeLog = s.timeLog := rfl

@[simp] theorem setDraws_cbLog (s : State) (d : Draws) : (s.setDraws d).cbLog = s.cbLog := rfl

@[simp] theorem setDraws_setupLog (s : State) (d : Draws) : (s.setDraws d).setupLog = s.setupLog := rfl

@[simp] theorem setDraws_ret (s : State) (d : Draws) : (s.setDraws d).ret = s.ret := rfl

@[simp] theorem setDraws_draws (s : State) (d : Draws) : (s.setDraws d).draws = d := rfl

@[simp] theorem setDraws_inbox (s : State) (d : Draws) : (s.setDraws d).inbox = s.inbox := rfl

/-! ### `setInbox` -/

@[simp] theorem setInbox_cfg (s : State) (l : List Input) : (s.setInbox l).cfg = s.cfg := rfl

@[simp] theorem setInbox_pipe (s : State) (l : List Input) (j : PipeId) : (s.setInbox l).pipe j = s.pipe j := rfl

@[simp] theorem setInbox_port (s : State) (l : List Input) (q : FPort) : (s.setInbox l).port q = s.port q := rfl

@[simp] theorem setInbox_chan (s : State) (l : List Input) (q : DPort) : (s.setInbox l).chan q = s.chan q := rfl

@[simp] theorem setInbox_link (s : State) (l : List Input) (j : PortId) : (s.setInbox l).link j = s.link j := rfl

@[simp] theorem setInbox_ctrl (s : State) (l : List Input) : (s.setInbox l).ctrl = s.ctrl := rfl

@[simp] theorem setInbox_sts (s : State) (l : List Input) (y : Source) : (s.setInbox l).sts y = s.sts y := rfl

@[simp] theorem setInbox_enb (s : State) (l : List Input) (y : Source) : (s.setInbox l).enb y = s.enb y := rfl

@[simp] theorem setInbox_mem (s : State) (l : List Input) : (s.setInbox l).mem = s.mem := rfl

@[simp] theorem setInbox_txLog (s : State) (l : List Input) : (s.setInbox l).txLog = s.txLog := rfl

@[simp] theorem setInbox_fifoLog (s : State) (l : List Input) : (s.setInbox l).fifoLog = s.fifoLog := rfl

@[simp] theorem setInbox_evLog (s : State) (l : List Input) : (s.setInbox l).evLog = s.evLog := rfl

@[simp] theorem setInbox_timeLog (s : State) (l : List Input) : (s.setInbox l).timeLog = s.timeLog := rfl

@[simp] theorem setInbox_cbLog (s : State) (l : List Input) : (s.setInbox l).cbLog = s.cbLog := rfl

@[simp] theorem setInbox_setupLog (s : State) (l : List Input) : (s.setInbox l).setupLog = s.setupLog := rfl

@[simp] theorem setInbox_ret (s : State) (l : List Input) : (s.setInbox l).ret = s.ret := rfl

@[simp] theorem setInbox_draws (s : State) (l : List Input) : (s.setInbox l).draws = s.draws := rfl

@[simp] theorem setInbox_inbox (s : State) (l : List Input) : (s.setInbox l).inbox = l := rfl

/-! ### `addTx` -/

@[simp] theorem addTx_cfg (s : State) (l : List TxEntry) : (s.addTx l).cfg = s.cfg := rfl

@[simp] theorem addTx_pipe (s : State) (l : List TxEntry) (j : PipeId) : (s.addTx l).pipe j = s.pipe j := rfl

@[simp] theorem addTx_port (s : State) (l : List TxEntry) (q : FPort) : (s.addTx l).port q = s.port q := rfl

@[simp] theorem addTx_chan (s : State) (l : List TxEntry) (q : DPort) : (s.addTx l).chan q = s.chan q := rfl

@[simp] theorem addTx_link (s : State) (l : List TxEntry) (j : PortId) : (s.addTx l).link j = s.link j := rfl

@[simp] theorem addTx_ctrl (s : State) (l : List TxEntry) : (s.addTx l).ctrl = s.ctrl := rfl

@[simp] theorem addTx_sts (s : State) (l : List TxEntry) (y : Source) : (s.addTx l).sts y = s.sts y := rfl

@[simp] theorem addTx_enb (s : State) (l : List TxEntry) (y : Source) : (s.addTx l).enb y = s.enb y := rfl

@[simp] theorem addTx_mem (s : State) (l : List TxEntry) : (s.addTx l).mem = s.mem := rfl

@[simp] theorem addTx_txLog (s : State) (l : List TxEntry) : (s.addTx l).txLog = s.txLog ++ l := rfl

@[simp] theorem addTx_fifoLog (s : State) (l : List TxEntry) : (s.addTx l).fifoLog = s.fifoLog := rfl

@[simp] theorem addTx_evLog (s : State) (l : List TxEntry) : (s.addTx l).evLog = s.evLog := rfl

@[simp] theorem addTx_timeLog (s : State) (l : List TxEntry) : (s.addTx l).timeLog = s.timeLog := rfl

@[simp] theorem addTx_cbLog (s : State) (l : List TxEntry) : (s.addTx l).cbLog = s.cbLog := rfl

@[simp] theorem addTx_setupLog (s : State) (l : List TxEntry) : (s.addTx l).setupLog = s.setupLog := rfl

@[simp] theorem addTx_ret (s : State) (l : List TxEntry) : (s.addTx l).ret = s.ret := rfl

@[simp] theorem addTx_draws (s : State) (l : List TxEntry) : (s.addTx l).draws = s.draws := rfl

@[simp] theorem addTx_inbox (s : State) (l : List TxEntry) : (s.addTx l).inbox = s.inbox := rfl

/-! ### `addFifo` -/

@[simp] theorem addFifo_cfg (s : State) (l : List FifoEntry) : (s.addFifo l).cfg = s.cfg := rfl

@[simp] theorem addFifo_pipe (s : State) (l : List FifoEntry) (j : PipeId) : (s.addFifo l).pipe j = s.pipe j := rfl

@[simp] theorem addFifo_port (s : State) (l : List FifoEntry) (q : FPort) : (s.addFifo l).port q = s.port q := rfl

@[simp] theorem addFifo_chan (s : State) (l : List FifoEntry) (q : DPort) : (s.addFifo l).chan q = s.chan q := rfl

@[simp] theorem addFifo_link (s : State) (l : List FifoEntry) (j : PortId) : (s.addFifo l).link j = s.link j := rfl

@[simp] theorem addFifo_ctrl (s : State) (l : List FifoEntry) : (s.addFifo l).ctrl = s.ctrl := rfl

@[simp] theorem addFifo_sts (s : State) (l : List FifoEntry) (y : Source) : (s.addFifo l).sts y = s.sts y := rfl

@[simp] theorem addFifo_enb (s : State) (l : List FifoEntry) (y : Source) : (s.addFifo l).enb y = s.enb y := rfl

@[simp] theorem addFifo_mem (s : State) (l : List FifoEntry) : (s.addFifo l).mem = s.mem := rfl

@[simp] theorem addFifo_txLog (s : State) (l : List FifoEntry) : (s.addFifo l).txLog = s.txLog := rfl

@[simp] theorem addFifo_fifoLog (s : State) (l : List FifoEntry) : (s.addFifo l).fifoLog = s.fifoLog ++ l := rfl

@[simp] theorem addFifo_evLog (s : State) (l : List FifoEntry) : (s.addFifo l).evLog = s.evLog := rfl

@[simp] theorem addFifo_timeLog (s : State) (l : List FifoEntry) : (s.addFifo l).timeLog = s.timeLog := rfl

@[simp] theorem addFifo_cbLog (s : State) (l : List FifoEntry) : (s.addFifo l).cbLog = s.cbLog := rfl

@[simp] theorem addFifo_setupLog (s : State) (l : List FifoEntry) : (s.addFifo l).setupLog = s.setupLog := rfl

@[simp] theorem addFifo_ret (s : State) (l : List FifoEntry) : (s.addFifo l).ret = s.ret := rfl

@[simp] theorem addFifo_draws (s : State) (l : List FifoEntry) : (s.addFifo l).draws = s.draws := rfl

@[simp] theorem addFifo_inbox (s : State) (l : List FifoEntry) : (s.addFifo l).inbox = s.inbox := rfl

/-! ### `addEv` -/

@[simp] theorem addEv_cfg (s : State) (e : EvEntry) : (s.addEv e).cfg = s.cfg := rfl

@[simp] theorem addEv_pipe (s : State) (e : EvEntry) (j : PipeId) : (s.addEv e).pipe j = s.pipe j := rfl

@[simp] theorem addEv_port (s : State) (e : EvEntry) (q : FPort) : (s.addEv e).port q = s.port q := rfl

@[simp] theorem addEv_chan (s : State) (e : EvEntry) (q : DPort) : (s.addEv e).chan q = s.chan q := rfl

@[simp] theorem addEv_link (s : State) (e : EvEntry) (j : PortId) : (s.addEv e).link j = s.link j := rfl

@[simp] theorem addEv_ctrl (s : State) (e : EvEntry) : (s.addEv e).ctrl = s.ctrl := rfl

@[simp] theorem addEv_sts (s : State) (e : EvEntry) (y : Source) : (s.addEv e).sts y = s.sts y := rfl

@[simp] theorem addEv_enb (s : State) (e : EvEntry) (y : Source) : (s.addEv e).enb y = s.enb y := rfl

@[simp] theorem addEv_mem (s : State) (e : EvEntry) : (s.addEv e).mem = s.mem := rfl

@[simp] theorem addEv_txLog (s : State) (e : EvEntry) : (s.addEv e).txLog = s.txLog := rfl

@[simp] theorem addEv_fifoLog (s : State) (e : EvEntry) : (s.addEv e).fifoLog = s.fifoLog := rfl

@[simp] theorem addEv_evLog (s : State) (e : EvEntry) : (s.addEv e).evLog = s.evLog ++ [e] := rfl

@[simp] theorem addEv_timeLog (s : State) (e : EvEntry) : (s.addEv e).timeLog = s.timeLog := rfl

@[simp] theorem addEv_cbLog (s : State) (e : EvEntry) : (s.addEv e).cbLog = s.cbLog := rfl

@[simp] theorem addEv_setupLog (s : State) (e : EvEntry) : (s.addEv e).setupLog = s.setupLog := rfl

@[simp] theorem addEv_ret (s : State) (e : EvEntry) : (s.addEv e).ret = s.ret := rfl

@[simp] theorem addEv_draws (s : State) (e : EvEntry) : (s.addEv e).draws = s.draws := rfl

@[simp] theorem addEv_inbox (s : State) (e : EvEntry) : (s.addEv e).inbox = s.inbox := rfl

/-! ### `addTime` -/

@[simp] theorem addTime_cfg (s : State) (e : TimeEntry) : (s.addTime e).cfg = s.cfg := rfl

@[simp] theorem addTime_pipe (s : State) (e : TimeEntry) (j : PipeId) : (s.addTime e).pipe j = s.pipe j := rfl

@[simp] theorem addTime_port (s : State) (e : TimeEntry) (q : FPort) : (s.addTime e).port q = s.port q := rfl

@[simp] theorem addTime_chan (s : State) (e : TimeEntry) (q : DPort) : (s.addTime e).chan q = s.chan q := rfl

@[simp] theorem addTime_link (s : State) (e : TimeEntry) (j : PortId) : (s.addTime e).link j = s.link j := rfl

@[simp] theorem addTime_ctrl (s : State) (e : TimeEntry) : (s.addTime e).ctrl = s.ctrl := rfl

@[simp] theorem addTime_sts (s : State) (e : TimeEntry) (y : Source) : (s.addTime e).sts y = s.sts y := rfl

@[simp] theorem addTime_enb (s : State) (e : TimeEntry) (y : Source) : (s.addTime e).enb y = s.enb y := rfl

@[simp] theorem addTime_mem (s : State) (e : TimeEntry) : (s.addTime e).mem = s.mem := rfl

@[simp] theorem addTime_txLog (s : State) (e : TimeEntry) : (s.addTime e).txLog = s.txLog := rfl

@[simp] theorem addTime_fifoLog (s : State) (e : TimeEntry) : (s.addTime e).fifoLog = s.fifoLog := rfl

@[simp] theorem addTime_evLog (s : State) (e : TimeEntry) : (s.addTime e).evLog = s.evLog := rfl

@[simp] theorem addTime_timeLog (s : State) (e : TimeEntry) : (s.addTime e).timeLog = s.timeLog ++ [e] := rfl

@[simp] theorem addTime_cbLog (s : State) (e : TimeEntry) : (s.addTime e).cbLog = s.cbLog := rfl

@[simp] theorem addTime_setupLog (s : State) (e : TimeEntry) : (s.addTime e).setupLog = s.setupLog := rfl

@[simp] theorem addTime_ret (s : State) (e : TimeEntry) : (s.addTime e).ret = s.ret := rfl

@[simp] theorem addTime_draws (s : State) (e : TimeEntry) : (s.addTime e).draws = s.draws := rfl

@[simp] theorem addTime_inbox (s : State) (e : TimeEntry) : (s.addTime e).inbox = s.inbox := rfl

/-! ### `addCb` -/

@[simp] theorem addCb_cfg (s : State) (e : CbEntry) : (s.addCb e).cfg = s.cfg := rfl

@[simp] theorem addCb_pipe (s : State) (e : CbEntry) (j : PipeId) : (s.addCb e).pipe j = s.pipe j := rfl

@[simp] theorem addCb_port (s : State) (e : CbEntry) (q : FPort) : (s.addCb e).port q = s.port q := rfl

@[simp] theorem addCb_chan (s : State) (e : CbEntry) (q : DPort) : (s.addCb e).chan q = s.chan q := rfl

@[simp] theorem addCb_link (s : State) (e : CbEntry) (j : PortId) : (s.addCb e).link j = s.link j := rfl

@[simp] theorem addCb_ctrl (s : State) (e : CbEntry) : (s.addCb e).ctrl = s.ctrl := rfl

@[simp] theorem addCb_sts (s : State) (e : CbEntry) (y : Source) : (s.addCb e).sts y = s.sts y := rfl

@[simp] theorem addCb_enb (s : State) (e : CbEntry) (y : Source) : (s.addCb e).enb y = s.enb y := rfl

@[simp] theorem addCb_mem (s : State) (e : CbEntry) : (s.addCb e).mem = s.mem := rfl

@[simp] theorem addCb_txLog (s : State) (e : CbEntry) : (s.addCb e).txLog = s.txLog := rfl

@[simp] theorem addCb_fifoLog (s : State) (e : CbEntry) : (s.addCb e).fifoLog = s.fifoLog := rfl

@[simp] theorem addCb_evLog (s : State) (e : CbEntry) : (s.addCb e).evLog = s.evLog := rfl

@[simp] theorem addCb_timeLog (s : State) (e : CbEntry) : (s.addCb e).timeLog = s.timeLog := rfl

@[simp] theorem addCb_cbLog (s : State) (e : CbEntry) : (s.addCb e).cbLog = s.cbLog ++ [e] := rfl

@[simp] theorem addCb_setupLog (s : State) (e : CbEntry) : (s.addCb e).setupLog = s.setupLog := rfl

@[simp] theorem addCb_ret (s : State) (e : CbEntry) : (s.addCb e).ret = s.ret := rfl

@[simp] theorem addCb_draws (s : State) (e : CbEntry) : (s.addCb e).draws = s.draws := rfl

@[simp] theorem addCb_inbox (s : State) (e : CbEntry) : (s.addCb e).inbox = s.inbox := rfl

/-! ### `addSetup` -/

@[simp] theorem addSetup_cfg (s : State) (v : Vector Byte 8) : (s.addSetup v).cfg = s.cfg := rfl

@[simp] theorem addSetup_pipe (s : State) (v : Vector Byte 8) (j : PipeId) : (s.addSetup v).pipe j = s.pipe j := rfl

@[simp] theorem addSetup_port (s : State) (v : Vector Byte 8) (q : FPort) : (s.addSetup v).port q = s.port q := rfl

@[simp] theorem addSetup_chan (s : State) (v : Vector Byte 8) (q : DPort) : (s.addSetup v).chan q = s.chan q := rfl

@[simp] theorem addSetup_link (s : State) (v : Vector Byte 8) (j : PortId) : (s.addSetup v).link j = s.link j := rfl

@[simp] theorem addSetup_ctrl (s : State) (v : Vector Byte 8) : (s.addSetup v).ctrl = s.ctrl := rfl

@[simp] theorem addSetup_sts (s : State) (v : Vector Byte 8) (y : Source) : (s.addSetup v).sts y = s.sts y := rfl

@[simp] theorem addSetup_enb (s : State) (v : Vector Byte 8) (y : Source) : (s.addSetup v).enb y = s.enb y := rfl

@[simp] theorem addSetup_mem (s : State) (v : Vector Byte 8) : (s.addSetup v).mem = s.mem := rfl

@[simp] theorem addSetup_txLog (s : State) (v : Vector Byte 8) : (s.addSetup v).txLog = s.txLog := rfl

@[simp] theorem addSetup_fifoLog (s : State) (v : Vector Byte 8) : (s.addSetup v).fifoLog = s.fifoLog := rfl

@[simp] theorem addSetup_evLog (s : State) (v : Vector Byte 8) : (s.addSetup v).evLog = s.evLog := rfl

@[simp] theorem addSetup_timeLog (s : State) (v : Vector Byte 8) : (s.addSetup v).timeLog = s.timeLog := rfl

@[simp] theorem addSetup_cbLog (s : State) (v : Vector Byte 8) : (s.addSetup v).cbLog = s.cbLog := rfl

@[simp] theorem addSetup_setupLog (s : State) (v : Vector Byte 8) : (s.addSetup v).setupLog = s.setupLog ++ [v] := rfl

@[simp] theorem addSetup_ret (s : State) (v : Vector Byte 8) : (s.addSetup v).ret = s.ret := rfl

@[simp] theorem addSetup_draws (s : State) (v : Vector Byte 8) : (s.addSetup v).draws = s.draws := rfl

@[simp] theorem addSetup_inbox (s : State) (v : Vector Byte 8) : (s.addSetup v).inbox = s.inbox := rfl

/-! ### `setSts` -/

@[simp] theorem setSts_cfg (s : State) (x : Source) (b : Bool) : (s.setSts x b).cfg = s.cfg := by
  cases x <;> rfl

@[simp] theorem setSts_pipe (s : State) (x : Source) (b : Bool) (j : PipeId) : (s.setSts x b).pipe j = s.pipe j := by
  cases x <;> rfl

@[simp] theorem setSts_port (s : State) (x : Source) (b : Bool) (q : FPort) : (s.setSts x b).port q = s.port q := by
  cases x <;> rfl

@[simp] theorem setSts_chan (s : State) (x : Source) (b : Bool) (q : DPort) : (s.setSts x b).chan q = s.chan q := by
  cases x <;> rfl

@[simp] theorem setSts_link (s : State) (x : Source) (b : Bool) (j : PortId) : (s.setSts x b).link j = s.link j := by
  cases x <;> rfl

@[simp] theorem setSts_ctrl (s : State) (x : Source) (b : Bool) : (s.setSts x b).ctrl = s.ctrl := by
  cases x <;> rfl

@[simp] theorem setSts_sts (s : State) (x : Source) (b : Bool) (y : Source) : (s.setSts x b).sts y = if x = y then b else s.sts y := by
  have hx := x.bit_lt
  have hy := y.bit_lt
  by_cases e : x.reg = y.reg
  · have hw := bit_inj (x := x) (y := y) e
    unfold State.sts State.setSts
    rw [← e] at hy ⊢
    cases hr : x.reg <;> rw [hr] at hy <;> simp only [← hw] <;> exact getLsbD_setBit _ _ _ _ hy
  · have hne : x ≠ y := fun h => e (by rw [h])
    rw [if_neg hne]
    unfold State.sts State.setSts
    cases hr : x.reg <;> cases hs : y.reg <;> simp_all

@[simp] theorem setSts_enb (s : State) (x : Source) (b : Bool) (y : Source) : (s.setSts x b).enb y = s.enb y := by
  cases x <;> rfl

@[simp] theorem setSts_mem (s : State) (x : Source) (b : Bool) : (s.setSts x b).mem = s.mem := by
  cases x <;> rfl

@[simp] theorem setSts_txLog (s : State) (x : Source) (b : Bool) : (s.setSts x b).txLog = s.txLog := by
  cases x <;> rfl

@[simp] theorem setSts_fifoLog (s : State) (x : Source) (b : Bool) : (s.setSts x b).fifoLog = s.fifoLog := by
  cases x <;> rfl

@[simp] theorem setSts_evLog (s : State) (x : Source) (b : Bool) : (s.setSts x b).evLog = s.evLog := by
  cases x <;> rfl

@[simp] theorem setSts_timeLog (s : State) (x : Source) (b : Bool) : (s.setSts x b).timeLog = s.timeLog := by
  cases x <;> rfl

@[simp] theorem setSts_cbLog (s : State) (x : Source) (b : Bool) : (s.setSts x b).cbLog = s.cbLog := by
  cases x <;> rfl

@[simp] theorem setSts_setupLog (s : State) (x : Source) (b : Bool) : (s.setSts x b).setupLog = s.setupLog := by
  cases x <;> rfl

@[simp] theorem setSts_ret (s : State) (x : Source) (b : Bool) : (s.setSts x b).ret = s.ret := by
  cases x <;> rfl

@[simp] theorem setSts_draws (s : State) (x : Source) (b : Bool) : (s.setSts x b).draws = s.draws := by
  cases x <;> rfl

@[simp] theorem setSts_inbox (s : State) (x : Source) (b : Bool) : (s.setSts x b).inbox = s.inbox := by
  cases x <;> rfl

/-! ### `setEnb` -/

@[simp] theorem setEnb_cfg (s : State) (x : Source) (b : Bool) : (s.setEnb x b).cfg = s.cfg := by
  cases x <;> rfl

@[simp] theorem setEnb_pipe (s : State) (x : Source) (b : Bool) (j : PipeId) : (s.setEnb x b).pipe j = s.pipe j := by
  cases x <;> rfl

@[simp] theorem setEnb_port (s : State) (x : Source) (b : Bool) (q : FPort) : (s.setEnb x b).port q = s.port q := by
  cases x <;> rfl

@[simp] theorem setEnb_chan (s : State) (x : Source) (b : Bool) (q : DPort) : (s.setEnb x b).chan q = s.chan q := by
  cases x <;> rfl

@[simp] theorem setEnb_link (s : State) (x : Source) (b : Bool) (j : PortId) : (s.setEnb x b).link j = s.link j := by
  cases x <;> rfl

@[simp] theorem setEnb_ctrl (s : State) (x : Source) (b : Bool) : (s.setEnb x b).ctrl = s.ctrl := by
  cases x <;> rfl

@[simp] theorem setEnb_sts (s : State) (x : Source) (b : Bool) (y : Source) : (s.setEnb x b).sts y = s.sts y := by
  cases x <;> rfl

@[simp] theorem setEnb_enb (s : State) (x : Source) (b : Bool) (y : Source) : (s.setEnb x b).enb y = if x = y then b else s.enb y := by
  have hx := x.bit_lt
  have hy := y.bit_lt
  by_cases e : x.reg = y.reg
  · have hw := bit_inj (x := x) (y := y) e
    unfold State.enb State.setEnb
    rw [← e] at hy ⊢
    cases hr : x.reg <;> rw [hr] at hy <;> simp only [← hw] <;> exact getLsbD_setBit _ _ _ _ hy
  · have hne : x ≠ y := fun h => e (by rw [h])
    rw [if_neg hne]
    unfold State.enb State.setEnb
    cases hr : x.reg <;> cases hs : y.reg <;> simp_all

@[simp] theorem setEnb_mem (s : State) (x : Source) (b : Bool) : (s.setEnb x b).mem = s.mem := by
  cases x <;> rfl

@[simp] theorem setEnb_txLog (s : State) (x : Source) (b : Bool) : (s.setEnb x b).txLog = s.txLog := by
  cases x <;> rfl

@[simp] theorem setEnb_fifoLog (s : State) (x : Source) (b : Bool) : (s.setEnb x b).fifoLog = s.fifoLog := by
  cases x <;> rfl

@[simp] theorem setEnb_evLog (s : State) (x : Source) (b : Bool) : (s.setEnb x b).evLog = s.evLog := by
  cases x <;> rfl

@[simp] theorem setEnb_timeLog (s : State) (x : Source) (b : Bool) : (s.setEnb x b).timeLog = s.timeLog := by
  cases x <;> rfl

@[simp] theorem setEnb_cbLog (s : State) (x : Source) (b : Bool) : (s.setEnb x b).cbLog = s.cbLog := by
  cases x <;> rfl

@[simp] theorem setEnb_setupLog (s : State) (x : Source) (b : Bool) : (s.setEnb x b).setupLog = s.setupLog := by
  cases x <;> rfl

@[simp] theorem setEnb_ret (s : State) (x : Source) (b : Bool) : (s.setEnb x b).ret = s.ret := by
  cases x <;> rfl

@[simp] theorem setEnb_draws (s : State) (x : Source) (b : Bool) : (s.setEnb x b).draws = s.draws := by
  cases x <;> rfl

@[simp] theorem setEnb_inbox (s : State) (x : Source) (b : Bool) : (s.setEnb x b).inbox = s.inbox := by
  cases x <;> rfl

/-! ### Updates that change nothing -/

theorem modPipe_self (s : State) (i : PipeId) (f : Pipe → Pipe) (h : f (s.pipe i) = s.pipe i) : s.modPipe i f = s := by
  unfold State.modPipe
  rw [h]
  simp [State.pipe]

theorem setSts_self (s : State) (x : Source) (b : Bool) (h : s.sts x = b) : s.setSts x b = s := by
  subst h
  cases x <;> simp [State.setSts, State.sts, Source.reg, setBit_self]

theorem setEnb_self (s : State) (x : Source) (b : Bool) (h : s.enb x = b) : s.setEnb x b = s := by
  subst h
  cases x <;> simp [State.setEnb, State.enb, Source.reg, setBit_self]

theorem returns_self (s : State) (r : Status) (h : s.ret = some r) : s.returns r = s := by
  unfold State.returns
  rw [← h]

end Sys2Proof.Machine
end

