-- ==== Sys2Proof/Laws/Fields.lean ====
section
/-! SUPPORT. What the draws, the host-link procedures and the toggle change of a `Hw` step do to each field: one lemma per
field that stays, and one that says what becomes of the fields that do not. -/

namespace Sys2Proof.Machine

variable {s : State}

/-! ### Draws: only `draws` changes -/

@[simp] theorem drawClearPolls_cfg : ((drawClearPolls s).2).cfg = s.cfg := by
  unfold drawClearPolls; split <;> rfl

@[simp] theorem drawClearPolls_pipe (j : PipeId) : ((drawClearPolls s).2).pipe j = s.pipe j := by
  unfold drawClearPolls; split <;> rfl

@[simp] theorem drawClearPolls_port (q : FPort) : ((drawClearPolls s).2).port q = s.port q := by
  unfold drawClearPolls; split <;> rfl

@[simp] theorem drawClearPolls_chan (q : DPort) : ((drawClearPolls s).2).chan q = s.chan q := by
  unfold drawClearPolls; split <;> rfl

@[simp] theorem drawClearPolls_link (k : PortId) : ((drawClearPolls s).2).link k = s.link k := by
  unfold drawClearPolls; split <;> rfl

@[simp] theorem drawClearPolls_ctrl : ((drawClearPolls s).2).ctrl = s.ctrl := by
  unfold drawClearPolls; split <;> rfl

@[simp] theorem drawClearPolls_sts (y : Source) : ((drawClearPolls s).2).sts y = s.sts y := by
  unfold drawClearPolls; split <;> rfl

@[simp] theorem drawClearPolls_enb (y : Source) : ((drawClearPolls s).2).enb y = s.enb y := by
  unfold drawClearPolls; split <;> rfl

@[simp] theorem drawClearPolls_mem : ((drawClearPolls s).2).mem = s.mem := by
  unfold drawClearPolls; split <;> rfl

@[simp] theorem drawClearPolls_txLog : ((drawClearPolls s).2).txLog = s.txLog := by
  unfold drawClearPolls; split <;> rfl

@[simp] theorem drawClearPolls_fifoLog : ((drawClearPolls s).2).fifoLog = s.fifoLog := by
  unfold drawClearPolls; split <;> rfl

@[simp] theorem drawClearPolls_evLog : ((drawClearPolls s).2).evLog = s.evLog := by
  unfold drawClearPolls; split <;> rfl

@[simp] theorem drawClearPolls_timeLog : ((drawClearPolls s).2).timeLog = s.timeLog := by
  unfold drawClearPolls; split <;> rfl

@[simp] theorem drawClearPolls_cbLog : ((drawClearPolls s).2).cbLog = s.cbLog := by
  unfold drawClearPolls; split <;> rfl

@[simp] theorem drawClearPolls_setupLog : ((drawClearPolls s).2).setupLog = s.setupLog := by
  unfold drawClearPolls; split <;> rfl

@[simp] theorem drawClearPolls_ret : ((drawClearPolls s).2).ret = s.ret := by
  unfold drawClearPolls; split <;> rfl

@[simp] theorem drawClearPolls_inbox : ((drawClearPolls s).2).inbox = s.inbox := by
  unfold drawClearPolls; split <;> rfl

@[simp] theorem drawLineState_cfg : ((drawLineState s).2).cfg = s.cfg := by
  unfold drawLineState; split <;> rfl

@[simp] theorem drawLineState_pipe (j : PipeId) : ((drawLineState s).2).pipe j = s.pipe j := by
  unfold drawLineState; split <;> rfl

@[simp] theorem drawLineState_port (q : FPort) : ((drawLineState s).2).port q = s.port q := by
  unfold drawLineState; split <;> rfl

@[simp] theorem drawLineState_chan (q : DPort) : ((drawLineState s).2).chan q = s.chan q := by
  unfold drawLineState; split <;> rfl

@[simp] theorem drawLineState_link (k : PortId) : ((drawLineState s).2).link k = s.link k := by
  unfold drawLineState; split <;> rfl

@[simp] theorem drawLineState_ctrl : ((drawLineState s).2).ctrl = s.ctrl := by
  unfold drawLineState; split <;> rfl

@[simp] theorem drawLineState_sts (y : Source) : ((drawLineState s).2).sts y = s.sts y := by
  unfold drawLineState; split <;> rfl

@[simp] theorem drawLineState_enb (y : Source) : ((drawLineState s).2).enb y = s.enb y := by
  unfold drawLineState; split <;> rfl

@[simp] theorem drawLineState_mem : ((drawLineState s).2).mem = s.mem := by
  unfold drawLineState; split <;> rfl

@[simp] theorem drawLineState_txLog : ((drawLineState s).2).txLog = s.txLog := by
  unfold drawLineState; split <;> rfl

@[simp] theorem drawLineState_fifoLog : ((drawLineState s).2).fifoLog = s.fifoLog := by
  unfold drawLineState; split <;> rfl

@[simp] theorem drawLineState_evLog : ((drawLineState s).2).evLog = s.evLog := by
  unfold drawLineState; split <;> rfl

@[simp] theorem drawLineState_timeLog : ((drawLineState s).2).timeLog = s.timeLog := by
  unfold drawLineState; split <;> rfl

@[simp] theorem drawLineState_cbLog : ((drawLineState s).2).cbLog = s.cbLog := by
  unfold drawLineState; split <;> rfl

@[simp] theorem drawLineState_setupLog : ((drawLineState s).2).setupLog = s.setupLog := by
  unfold drawLineState; split <;> rfl

@[simp] theorem drawLineState_ret : ((drawLineState s).2).ret = s.ret := by
  unfold drawLineState; split <;> rfl

@[simp] theorem drawLineState_inbox : ((drawLineState s).2).inbox = s.inbox := by
  unfold drawLineState; split <;> rfl

@[simp] theorem drawHandshake_cfg (a : Speed) : ((drawHandshake a s).2).cfg = s.cfg := by
  unfold drawHandshake; split <;> rfl

@[simp] theorem drawHandshake_pipe (a : Speed) (j : PipeId) : ((drawHandshake a s).2).pipe j = s.pipe j := by
  unfold drawHandshake; split <;> rfl

@[simp] theorem drawHandshake_port (a : Speed) (q : FPort) : ((drawHandshake a s).2).port q = s.port q := by
  unfold drawHandshake; split <;> rfl

@[simp] theorem drawHandshake_chan (a : Speed) (q : DPort) : ((drawHandshake a s).2).chan q = s.chan q := by
  unfold drawHandshake; split <;> rfl

@[simp] theorem drawHandshake_link (a : Speed) (k : PortId) : ((drawHandshake a s).2).link k = s.link k := by
  unfold drawHandshake; split <;> rfl

@[simp] theorem drawHandshake_ctrl (a : Speed) : ((drawHandshake a s).2).ctrl = s.ctrl := by
  unfold drawHandshake; split <;> rfl

@[simp] theorem drawHandshake_sts (a : Speed) (y : Source) : ((drawHandshake a s).2).sts y = s.sts y := by
  unfold drawHandshake; split <;> rfl

@[simp] theorem drawHandshake_enb (a : Speed) (y : Source) : ((drawHandshake a s).2).enb y = s.enb y := by
  unfold drawHandshake; split <;> rfl

@[simp] theorem drawHandshake_mem (a : Speed) : ((drawHandshake a s).2).mem = s.mem := by
  unfold drawHandshake; split <;> rfl

@[simp] theorem drawHandshake_txLog (a : Speed) : ((drawHandshake a s).2).txLog = s.txLog := by
  unfold drawHandshake; split <;> rfl

@[simp] theorem drawHandshake_fifoLog (a : Speed) : ((drawHandshake a s).2).fifoLog = s.fifoLog := by
  unfold drawHandshake; split <;> rfl

@[simp] theorem drawHandshake_evLog (a : Speed) : ((drawHandshake a s).2).evLog = s.evLog := by
  unfold drawHandshake; split <;> rfl

@[simp] theorem drawHandshake_timeLog (a : Speed) : ((drawHandshake a s).2).timeLog = s.timeLog := by
  unfold drawHandshake; split <;> rfl

@[simp] theorem drawHandshake_cbLog (a : Speed) : ((drawHandshake a s).2).cbLog = s.cbLog := by
  unfold drawHandshake; split <;> rfl

@[simp] theorem drawHandshake_setupLog (a : Speed) : ((drawHandshake a s).2).setupLog = s.setupLog := by
  unfold drawHandshake; split <;> rfl

@[simp] theorem drawHandshake_ret (a : Speed) : ((drawHandshake a s).2).ret = s.ret := by
  unfold drawHandshake; split <;> rfl

@[simp] theorem drawHandshake_inbox (a : Speed) : ((drawHandshake a s).2).inbox = s.inbox := by
  unfold drawHandshake; split <;> rfl

@[simp] theorem drawRxBlock_cfg (n : Nat) : ((drawRxBlock n s).2).cfg = s.cfg := by
  unfold drawRxBlock; split <;> rfl

@[simp] theorem drawRxBlock_pipe (n : Nat) (j : PipeId) : ((drawRxBlock n s).2).pipe j = s.pipe j := by
  unfold drawRxBlock; split <;> rfl

@[simp] theorem drawRxBlock_port (n : Nat) (q : FPort) : ((drawRxBlock n s).2).port q = s.port q := by
  unfold drawRxBlock; split <;> rfl

@[simp] theorem drawRxBlock_chan (n : Nat) (q : DPort) : ((drawRxBlock n s).2).chan q = s.chan q := by
  unfold drawRxBlock; split <;> rfl

@[simp] theorem drawRxBlock_link (n : Nat) (k : PortId) : ((drawRxBlock n s).2).link k = s.link k := by
  unfold drawRxBlock; split <;> rfl

@[simp] theorem drawRxBlock_ctrl (n : Nat) : ((drawRxBlock n s).2).ctrl = s.ctrl := by
  unfold drawRxBlock; split <;> rfl

@[simp] theorem drawRxBlock_sts (n : Nat) (y : Source) : ((drawRxBlock n s).2).sts y = s.sts y := by
  unfold drawRxBlock; split <;> rfl

@[simp] theorem drawRxBlock_enb (n : Nat) (y : Source) : ((drawRxBlock n s).2).enb y = s.enb y := by
  unfold drawRxBlock; split <;> rfl

@[simp] theorem drawRxBlock_mem (n : Nat) : ((drawRxBlock n s).2).mem = s.mem := by
  unfold drawRxBlock; split <;> rfl

@[simp] theorem drawRxBlock_txLog (n : Nat) : ((drawRxBlock n s).2).txLog = s.txLog := by
  unfold drawRxBlock; split <;> rfl

@[simp] theorem drawRxBlock_fifoLog (n : Nat) : ((drawRxBlock n s).2).fifoLog = s.fifoLog := by
  unfold drawRxBlock; split <;> rfl

@[simp] theorem drawRxBlock_evLog (n : Nat) : ((drawRxBlock n s).2).evLog = s.evLog := by
  unfold drawRxBlock; split <;> rfl

@[simp] theorem drawRxBlock_timeLog (n : Nat) : ((drawRxBlock n s).2).timeLog = s.timeLog := by
  unfold drawRxBlock; split <;> rfl

@[simp] theorem drawRxBlock_cbLog (n : Nat) : ((drawRxBlock n s).2).cbLog = s.cbLog := by
  unfold drawRxBlock; split <;> rfl

@[simp] theorem drawRxBlock_setupLog (n : Nat) : ((drawRxBlock n s).2).setupLog = s.setupLog := by
  unfold drawRxBlock; split <;> rfl

@[simp] theorem drawRxBlock_ret (n : Nat) : ((drawRxBlock n s).2).ret = s.ret := by
  unfold drawRxBlock; split <;> rfl

@[simp] theorem drawRxBlock_inbox (n : Nat) : ((drawRxBlock n s).2).inbox = s.inbox := by
  unfold drawRxBlock; split <;> rfl

@[simp] theorem drawToggles_cfg : ((drawToggles s).2).cfg = s.cfg := by
  unfold drawToggles; split <;> rfl

@[simp] theorem drawToggles_pipe (j : PipeId) : ((drawToggles s).2).pipe j = s.pipe j := by
  unfold drawToggles; split <;> rfl

@[simp] theorem drawToggles_port (q : FPort) : ((drawToggles s).2).port q = s.port q := by
  unfold drawToggles; split <;> rfl

@[simp] theorem drawToggles_chan (q : DPort) : ((drawToggles s).2).chan q = s.chan q := by
  unfold drawToggles; split <;> rfl

@[simp] theorem drawToggles_link (k : PortId) : ((drawToggles s).2).link k = s.link k := by
  unfold drawToggles; split <;> rfl

@[simp] theorem drawToggles_ctrl : ((drawToggles s).2).ctrl = s.ctrl := by
  unfold drawToggles; split <;> rfl

@[simp] theorem drawToggles_sts (y : Source) : ((drawToggles s).2).sts y = s.sts y := by
  unfold drawToggles; split <;> rfl

@[simp] theorem drawToggles_enb (y : Source) : ((drawToggles s).2).enb y = s.enb y := by
  unfold drawToggles; split <;> rfl

@[simp] theorem drawToggles_mem : ((drawToggles s).2).mem = s.mem := by
  unfold drawToggles; split <;> rfl

@[simp] theorem drawToggles_txLog : ((drawToggles s).2).txLog = s.txLog := by
  unfold drawToggles; split <;> rfl

@[simp] theorem drawToggles_fifoLog : ((drawToggles s).2).fifoLog = s.fifoLog := by
  unfold drawToggles; split <;> rfl

@[simp] theorem drawToggles_evLog : ((drawToggles s).2).evLog = s.evLog := by
  unfold drawToggles; split <;> rfl

@[simp] theorem drawToggles_timeLog : ((drawToggles s).2).timeLog = s.timeLog := by
  unfold drawToggles; split <;> rfl

@[simp] theorem drawToggles_cbLog : ((drawToggles s).2).cbLog = s.cbLog := by
  unfold drawToggles; split <;> rfl

@[simp] theorem drawToggles_setupLog : ((drawToggles s).2).setupLog = s.setupLog := by
  unfold drawToggles; split <;> rfl

@[simp] theorem drawToggles_ret : ((drawToggles s).2).ret = s.ret := by
  unfold drawToggles; split <;> rfl

@[simp] theorem drawToggles_inbox : ((drawToggles s).2).inbox = s.inbox := by
  unfold drawToggles; split <;> rfl

/-! ### `Delay` and `Notify` -/

@[simp] theorem delay_cfg (n : Nat) : (delay n s).cfg = s.cfg := by
  rfl

@[simp] theorem delay_pipe (n : Nat) (j : PipeId) : (delay n s).pipe j = s.pipe j := by
  rfl

@[simp] theorem delay_port (n : Nat) (q : FPort) : (delay n s).port q = s.port q := by
  rfl

@[simp] theorem delay_chan (n : Nat) (q : DPort) : (delay n s).chan q = s.chan q := by
  rfl

@[simp] theorem delay_link (n : Nat) (k : PortId) : (delay n s).link k = s.link k := by
  rfl

@[simp] theorem delay_ctrl (n : Nat) : (delay n s).ctrl = s.ctrl := by
  rfl

@[simp] theorem delay_sts (n : Nat) (y : Source) : (delay n s).sts y = s.sts y := by
  rfl

@[simp] theorem delay_enb (n : Nat) (y : Source) : (delay n s).enb y = s.enb y := by
  rfl

@[simp] theorem delay_mem (n : Nat) : (delay n s).mem = s.mem := by
  rfl

@[simp] theorem delay_txLog (n : Nat) : (delay n s).txLog = s.txLog := by
  rfl

@[simp] theorem delay_fifoLog (n : Nat) : (delay n s).fifoLog = s.fifoLog := by
  rfl

@[simp] theorem delay_evLog (n : Nat) : (delay n s).evLog = s.evLog := by
  rfl

@[simp] theorem delay_cbLog (n : Nat) : (delay n s).cbLog = s.cbLog := by
  rfl

@[simp] theorem delay_setupLog (n : Nat) : (delay n s).setupLog = s.setupLog := by
  rfl

@[simp] theorem delay_ret (n : Nat) : (delay n s).ret = s.ret := by
  rfl

@[simp] theorem delay_draws (n : Nat) : (delay n s).draws = s.draws := by
  rfl

@[simp] theorem delay_inbox (n : Nat) : (delay n s).inbox = s.inbox := by
  rfl

@[simp] theorem delay_timeLog (n : Nat) : (delay n s).timeLog = s.timeLog ++ [.delay n] := rfl

@[simp] theorem notify_cfg (e : Event) (p : PortId) (v : Speed) : (notify e p v s).cfg = s.cfg := by
  rfl

@[simp] theorem notify_pipe (e : Event) (p : PortId) (v : Speed) (j : PipeId) : (notify e p v s).pipe j = s.pipe j := by
  rfl

@[simp] theorem notify_port (e : Event) (p : PortId) (v : Speed) (q : FPort) : (notify e p v s).port q = s.port q := by
  rfl

@[simp] theorem notify_chan (e : Event) (p : PortId) (v : Speed) (q : DPort) : (notify e p v s).chan q = s.chan q := by
  rfl

@[simp] theorem notify_link (e : Event) (p : PortId) (v : Speed) (k : PortId) : (notify e p v s).link k = s.link k := by
  rfl

@[simp] theorem notify_ctrl (e : Event) (p : PortId) (v : Speed) : (notify e p v s).ctrl = s.ctrl := by
  rfl

@[simp] theorem notify_sts (e : Event) (p : PortId) (v : Speed) (y : Source) : (notify e p v s).sts y = s.sts y := by
  rfl

@[simp] theorem notify_enb (e : Event) (p : PortId) (v : Speed) (y : Source) : (notify e p v s).enb y = s.enb y := by
  rfl

@[simp] theorem notify_mem (e : Event) (p : PortId) (v : Speed) : (notify e p v s).mem = s.mem := by
  rfl

@[simp] theorem notify_txLog (e : Event) (p : PortId) (v : Speed) : (notify e p v s).txLog = s.txLog := by
  rfl

@[simp] theorem notify_fifoLog (e : Event) (p : PortId) (v : Speed) : (notify e p v s).fifoLog = s.fifoLog := by
  rfl

@[simp] theorem notify_timeLog (e : Event) (p : PortId) (v : Speed) : (notify e p v s).timeLog = s.timeLog := by
  rfl

@[simp] theorem notify_cbLog (e : Event) (p : PortId) (v : Speed) : (notify e p v s).cbLog = s.cbLog := by
  rfl

@[simp] theorem notify_setupLog (e : Event) (p : PortId) (v : Speed) : (notify e p v s).setupLog = s.setupLog := by
  rfl

@[simp] theorem notify_ret (e : Event) (p : PortId) (v : Speed) : (notify e p v s).ret = s.ret := by
  rfl

@[simp] theorem notify_draws (e : Event) (p : PortId) (v : Speed) : (notify e p v s).draws = s.draws := by
  rfl

@[simp] theorem notify_inbox (e : Event) (p : PortId) (v : Speed) : (notify e p v s).inbox = s.inbox := by
  rfl

@[simp] theorem notify_evLog (e : Event) (p : PortId) (v : Speed) :
    (notify e p v s).evLog = s.evLog ++ [⟨e, p, v⟩] := rfl

/-! ### `Gate` and the link state -/

@[simp] theorem gate_cfg (p : PortId) : (gate p s).cfg = s.cfg := by
  simp [gate]

@[simp] theorem gate_pipe (p : PortId) (j : PipeId) : (gate p s).pipe j = s.pipe j := by
  simp [gate]

@[simp] theorem gate_port (p : PortId) (q : FPort) : (gate p s).port q = s.port q := by
  simp [gate]

@[simp] theorem gate_chan (p : PortId) (q : DPort) : (gate p s).chan q = s.chan q := by
  simp [gate]

@[simp] theorem gate_link (p : PortId) (k : PortId) : (gate p s).link k = s.link k := by
  simp [gate]

@[simp] theorem gate_ctrl (p : PortId) : (gate p s).ctrl = s.ctrl := by
  simp [gate]

@[simp] theorem gate_sts (p : PortId) (y : Source) : (gate p s).sts y = s.sts y := by
  simp [gate]

@[simp] theorem gate_mem (p : PortId) : (gate p s).mem = s.mem := by
  simp [gate]

@[simp] theorem gate_txLog (p : PortId) : (gate p s).txLog = s.txLog := by
  simp [gate]

@[simp] theorem gate_fifoLog (p : PortId) : (gate p s).fifoLog = s.fifoLog := by
  simp [gate]

@[simp] theorem gate_evLog (p : PortId) : (gate p s).evLog = s.evLog := by
  simp [gate]

@[simp] theorem gate_timeLog (p : PortId) : (gate p s).timeLog = s.timeLog := by
  simp [gate]

@[simp] theorem gate_cbLog (p : PortId) : (gate p s).cbLog = s.cbLog := by
  simp [gate]

@[simp] theorem gate_setupLog (p : PortId) : (gate p s).setupLog = s.setupLog := by
  simp [gate]

@[simp] theorem gate_ret (p : PortId) : (gate p s).ret = s.ret := by
  simp [gate]

@[simp] theorem gate_draws (p : PortId) : (gate p s).draws = s.draws := by
  simp [gate]

@[simp] theorem gate_inbox (p : PortId) : (gate p s).inbox = s.inbox := by
  simp [gate]

@[simp] theorem enterLink_cfg (p : PortId) (x : LinkState) : (enterLink p x s).cfg = s.cfg := by
  simp [enterLink]

@[simp] theorem enterLink_pipe (p : PortId) (x : LinkState) (j : PipeId) : (enterLink p x s).pipe j = s.pipe j := by
  simp [enterLink]

@[simp] theorem enterLink_port (p : PortId) (x : LinkState) (q : FPort) : (enterLink p x s).port q = s.port q := by
  simp [enterLink]

@[simp] theorem enterLink_chan (p : PortId) (x : LinkState) (q : DPort) : (enterLink p x s).chan q = s.chan q := by
  simp [enterLink]

@[simp] theorem enterLink_ctrl (p : PortId) (x : LinkState) : (enterLink p x s).ctrl = s.ctrl := by
  simp [enterLink]

@[simp] theorem enterLink_sts (p : PortId) (x : LinkState) (y : Source) : (enterLink p x s).sts y = s.sts y := by
  simp [enterLink]

@[simp] theorem enterLink_mem (p : PortId) (x : LinkState) : (enterLink p x s).mem = s.mem := by
  simp [enterLink]

@[simp] theorem enterLink_txLog (p : PortId) (x : LinkState) : (enterLink p x s).txLog = s.txLog := by
  simp [enterLink]

@[simp] theorem enterLink_fifoLog (p : PortId) (x : LinkState) : (enterLink p x s).fifoLog = s.fifoLog := by
  simp [enterLink]

@[simp] theorem enterLink_evLog (p : PortId) (x : LinkState) : (enterLink p x s).evLog = s.evLog := by
  simp [enterLink]

@[simp] theorem enterLink_timeLog (p : PortId) (x : LinkState) : (enterLink p x s).timeLog = s.timeLog := by
  simp [enterLink]

@[simp] theorem enterLink_cbLog (p : PortId) (x : LinkState) : (enterLink p x s).cbLog = s.cbLog := by
  simp [enterLink]

@[simp] theorem enterLink_setupLog (p : PortId) (x : LinkState) : (enterLink p x s).setupLog = s.setupLog := by
  simp [enterLink]

@[simp] theorem enterLink_ret (p : PortId) (x : LinkState) : (enterLink p x s).ret = s.ret := by
  simp [enterLink]

@[simp] theorem enterLink_draws (p : PortId) (x : LinkState) : (enterLink p x s).draws = s.draws := by
  simp [enterLink]

@[simp] theorem enterLink_inbox (p : PortId) (x : LinkState) : (enterLink p x s).inbox = s.inbox := by
  simp [enterLink]

@[simp] theorem enterLink_link (p k : PortId) (x : LinkState) : (enterLink p x s).link k =
    if p = k then { s.link p with state := x } else s.link k := by
  simp [enterLink]

theorem gate_gated (p : PortId) : (gate p s).Gated p := by
  simp [State.Gated, gate]

theorem enterLink_gated (p : PortId) (x : LinkState) : (enterLink p x s).Gated p := gate_gated p

@[simp] theorem setLink_cfg (p : PortId) (x : LinkState) (c : Conn) : (setLink p x c s).cfg = s.cfg := by
  rfl

@[simp] theorem setLink_pipe (p : PortId) (x : LinkState) (c : Conn) (j : PipeId) : (setLink p x c s).pipe j = s.pipe j := by
  rfl

@[simp] theorem setLink_port (p : PortId) (x : LinkState) (c : Conn) (q : FPort) : (setLink p x c s).port q = s.port q := by
  rfl

@[simp] theorem setLink_chan (p : PortId) (x : LinkState) (c : Conn) (q : DPort) : (setLink p x c s).chan q = s.chan q := by
  rfl

@[simp] theorem setLink_ctrl (p : PortId) (x : LinkState) (c : Conn) : (setLink p x c s).ctrl = s.ctrl := by
  rfl

@[simp] theorem setLink_sts (p : PortId) (x : LinkState) (c : Conn) (y : Source) : (setLink p x c s).sts y = s.sts y := by
  rfl

@[simp] theorem setLink_enb (p : PortId) (x : LinkState) (c : Conn) (y : Source) : (setLink p x c s).enb y = s.enb y := by
  rfl

@[simp] theorem setLink_mem (p : PortId) (x : LinkState) (c : Conn) : (setLink p x c s).mem = s.mem := by
  rfl

@[simp] theorem setLink_txLog (p : PortId) (x : LinkState) (c : Conn) : (setLink p x c s).txLog = s.txLog := by
  rfl

@[simp] theorem setLink_fifoLog (p : PortId) (x : LinkState) (c : Conn) : (setLink p x c s).fifoLog = s.fifoLog := by
  rfl

@[simp] theorem setLink_evLog (p : PortId) (x : LinkState) (c : Conn) : (setLink p x c s).evLog = s.evLog := by
  rfl

@[simp] theorem setLink_timeLog (p : PortId) (x : LinkState) (c : Conn) : (setLink p x c s).timeLog = s.timeLog := by
  rfl

@[simp] theorem setLink_cbLog (p : PortId) (x : LinkState) (c : Conn) : (setLink p x c s).cbLog = s.cbLog := by
  rfl

@[simp] theorem setLink_setupLog (p : PortId) (x : LinkState) (c : Conn) : (setLink p x c s).setupLog = s.setupLog := by
  rfl

@[simp] theorem setLink_ret (p : PortId) (x : LinkState) (c : Conn) : (setLink p x c s).ret = s.ret := by
  rfl

@[simp] theorem setLink_draws (p : PortId) (x : LinkState) (c : Conn) : (setLink p x c s).draws = s.draws := by
  rfl

@[simp] theorem setLink_inbox (p : PortId) (x : LinkState) (c : Conn) : (setLink p x c s).inbox = s.inbox := by
  rfl

@[simp] theorem setLink_link (p k : PortId) (x : LinkState) (c : Conn) : (setLink p x c s).link k =
    if p = k then { s.link p with state := x, conn := c } else s.link k := by
  simp [setLink]

/-! ### The two polling loops -/

@[simp] theorem debounce_cfg (n : Nat) (a : LineState) : ((debounce n a s).2).cfg = s.cfg := by
  induction n generalizing a s with
  | zero => rfl
  | succ n ih =>
    simp only [debounce]; split <;> simp [ih]

@[simp] theorem debounce_pipe (n : Nat) (a : LineState) (j : PipeId) : ((debounce n a s).2).pipe j = s.pipe j := by
  induction n generalizing a s with
  | zero => rfl
  | succ n ih =>
    simp only [debounce]; split <;> simp [ih]

@[simp] theorem debounce_port (n : Nat) (a : LineState) (q : FPort) : ((debounce n a s).2).port q = s.port q := by
  induction n generalizing a s with
  | zero => rfl
  | succ n ih =>
    simp only [debounce]; split <;> simp [ih]

@[simp] theorem debounce_chan (n : Nat) (a : LineState) (q : DPort) : ((debounce n a s).2).chan q = s.chan q := by
  induction n generalizing a s with
  | zero => rfl
  | succ n ih =>
    simp only [debounce]; split <;> simp [ih]

@[simp] theorem debounce_link (n : Nat) (a : LineState) (k : PortId) : ((debounce n a s).2).link k = s.link k := by
  induction n generalizing a s with
  | zero => rfl
  | succ n ih =>
    simp only [debounce]; split <;> simp [ih]

@[simp] theorem debounce_ctrl (n : Nat) (a : LineState) : ((debounce n a s).2).ctrl = s.ctrl := by
  induction n generalizing a s with
  | zero => rfl
  | succ n ih =>
    simp only [debounce]; split <;> simp [ih]

@[simp] theorem debounce_sts (n : Nat) (a : LineState) (y : Source) : ((debounce n a s).2).sts y = s.sts y := by
  induction n generalizing a s with
  | zero => rfl
  | succ n ih =>
    simp only [debounce]; split <;> simp [ih]

@[simp] theorem debounce_enb (n : Nat) (a : LineState) (y : Source) : ((debounce n a s).2).enb y = s.enb y := by
  induction n generalizing a s with
  | zero => rfl
  | succ n ih =>
    simp only [debounce]; split <;> simp [ih]

@[simp] theorem debounce_mem (n : Nat) (a : LineState) : ((debounce n a s).2).mem = s.mem := by
  induction n generalizing a s with
  | zero => rfl
  | succ n ih =>
    simp only [debounce]; split <;> simp [ih]

@[simp] theorem debounce_txLog (n : Nat) (a : LineState) : ((debounce n a s).2).txLog = s.txLog := by
  induction n generalizing a s with
  | zero => rfl
  | succ n ih =>
    simp only [debounce]; split <;> simp [ih]

@[simp] theorem debounce_fifoLog (n : Nat) (a : LineState) : ((debounce n a s).2).fifoLog = s.fifoLog := by
  induction n generalizing a s with
  | zero => rfl
  | succ n ih =>
    simp only [debounce]; split <;> simp [ih]

@[simp] theorem debounce_evLog (n : Nat) (a : LineState) : ((debounce n a s).2).evLog = s.evLog := by
  induction n generalizing a s with
  | zero => rfl
  | succ n ih =>
    simp only [debounce]; split <;> simp [ih]

@[simp] theorem debounce_cbLog (n : Nat) (a : LineState) : ((debounce n a s).2).cbLog = s.cbLog := by
  induction n generalizing a s with
  | zero => rfl
  | succ n ih =>
    simp only [debounce]; split <;> simp [ih]

@[simp] theorem debounce_setupLog (n : Nat) (a : LineState) : ((debounce n a s).2).setupLog = s.setupLog := by
  induction n generalizing a s with
  | zero => rfl
  | succ n ih =>
    simp only [debounce]; split <;> simp [ih]

@[simp] theorem debounce_ret (n : Nat) (a : LineState) : ((debounce n a s).2).ret = s.ret := by
  induction n generalizing a s with
  | zero => rfl
  | succ n ih =>
    simp only [debounce]; split <;> simp [ih]

@[simp] theorem debounce_inbox (n : Nat) (a : LineState) : ((debounce n a s).2).inbox = s.inbox := by
  induction n generalizing a s with
  | zero => rfl
  | succ n ih =>
    simp only [debounce]; split <;> simp [ih]

@[simp] theorem resetPoll_cfg (v : Speed) (n : Nat) : ((resetPoll v n s).2).cfg = s.cfg := by
  induction n generalizing s with
  | zero => rfl
  | succ n ih =>
    simp only [resetPoll]; split <;> simp [ih]

@[simp] theorem resetPoll_pipe (v : Speed) (n : Nat) (j : PipeId) : ((resetPoll v n s).2).pipe j = s.pipe j := by
  induction n generalizing s with
  | zero => rfl
  | succ n ih =>
    simp only [resetPoll]; split <;> simp [ih]

@[simp] theorem resetPoll_port (v : Speed) (n : Nat) (q : FPort) : ((resetPoll v n s).2).port q = s.port q := by
  induction n generalizing s with
  | zero => rfl
  | succ n ih =>
    simp only [resetPoll]; split <;> simp [ih]

@[simp] theorem resetPoll_chan (v : Speed) (n : Nat) (q : DPort) : ((resetPoll v n s).2).chan q = s.chan q := by
  induction n generalizing s with
  | zero => rfl
  | succ n ih =>
    simp only [resetPoll]; split <;> simp [ih]

@[simp] theorem resetPoll_link (v : Speed) (n : Nat) (k : PortId) : ((resetPoll v n s).2).link k = s.link k := by
  induction n generalizing s with
  | zero => rfl
  | succ n ih =>
    simp only [resetPoll]; split <;> simp [ih]

@[simp] theorem resetPoll_ctrl (v : Speed) (n : Nat) : ((resetPoll v n s).2).ctrl = s.ctrl := by
  induction n generalizing s with
  | zero => rfl
  | succ n ih =>
    simp only [resetPoll]; split <;> simp [ih]

@[simp] theorem resetPoll_sts (v : Speed) (n : Nat) (y : Source) : ((resetPoll v n s).2).sts y = s.sts y := by
  induction n generalizing s with
  | zero => rfl
  | succ n ih =>
    simp only [resetPoll]; split <;> simp [ih]

@[simp] theorem resetPoll_enb (v : Speed) (n : Nat) (y : Source) : ((resetPoll v n s).2).enb y = s.enb y := by
  induction n generalizing s with
  | zero => rfl
  | succ n ih =>
    simp only [resetPoll]; split <;> simp [ih]

@[simp] theorem resetPoll_mem (v : Speed) (n : Nat) : ((resetPoll v n s).2).mem = s.mem := by
  induction n generalizing s with
  | zero => rfl
  | succ n ih =>
    simp only [resetPoll]; split <;> simp [ih]

@[simp] theorem resetPoll_txLog (v : Speed) (n : Nat) : ((resetPoll v n s).2).txLog = s.txLog := by
  induction n generalizing s with
  | zero => rfl
  | succ n ih =>
    simp only [resetPoll]; split <;> simp [ih]

@[simp] theorem resetPoll_fifoLog (v : Speed) (n : Nat) : ((resetPoll v n s).2).fifoLog = s.fifoLog := by
  induction n generalizing s with
  | zero => rfl
  | succ n ih =>
    simp only [resetPoll]; split <;> simp [ih]

@[simp] theorem resetPoll_evLog (v : Speed) (n : Nat) : ((resetPoll v n s).2).evLog = s.evLog := by
  induction n generalizing s with
  | zero => rfl
  | succ n ih =>
    simp only [resetPoll]; split <;> simp [ih]

@[simp] theorem resetPoll_cbLog (v : Speed) (n : Nat) : ((resetPoll v n s).2).cbLog = s.cbLog := by
  induction n generalizing s with
  | zero => rfl
  | succ n ih =>
    simp only [resetPoll]; split <;> simp [ih]

@[simp] theorem resetPoll_setupLog (v : Speed) (n : Nat) : ((resetPoll v n s).2).setupLog = s.setupLog := by
  induction n generalizing s with
  | zero => rfl
  | succ n ih =>
    simp only [resetPoll]; split <;> simp [ih]

@[simp] theorem resetPoll_ret (v : Speed) (n : Nat) : ((resetPoll v n s).2).ret = s.ret := by
  induction n generalizing s with
  | zero => rfl
  | succ n ih =>
    simp only [resetPoll]; split <;> simp [ih]

@[simp] theorem resetPoll_inbox (v : Speed) (n : Nat) : ((resetPoll v n s).2).inbox = s.inbox := by
  induction n generalizing s with
  | zero => rfl
  | succ n ih =>
    simp only [resetPoll]; split <;> simp [ih]

/-! ### The toggle change of a `Hw` step (R244) -/

@[simp] theorem hwToggles_cfg : (hwToggles s).cfg = s.cfg := by
  simp [hwToggles]

@[simp] theorem hwToggles_port (q : FPort) : (hwToggles s).port q = s.port q := by
  simp [hwToggles]

@[simp] theorem hwToggles_chan (q : DPort) : (hwToggles s).chan q = s.chan q := by
  simp [hwToggles]

@[simp] theorem hwToggles_link (k : PortId) : (hwToggles s).link k = s.link k := by
  simp [hwToggles]

@[simp] theorem hwToggles_ctrl : (hwToggles s).ctrl = s.ctrl := by
  simp [hwToggles]

@[simp] theorem hwToggles_sts (y : Source) : (hwToggles s).sts y = s.sts y := by
  simp [hwToggles]

@[simp] theorem hwToggles_enb (y : Source) : (hwToggles s).enb y = s.enb y := by
  simp [hwToggles]

@[simp] theorem hwToggles_mem : (hwToggles s).mem = s.mem := by
  simp [hwToggles]

@[simp] theorem hwToggles_txLog : (hwToggles s).txLog = s.txLog := by
  simp [hwToggles]

@[simp] theorem hwToggles_fifoLog : (hwToggles s).fifoLog = s.fifoLog := by
  simp [hwToggles]

@[simp] theorem hwToggles_evLog : (hwToggles s).evLog = s.evLog := by
  simp [hwToggles]

@[simp] theorem hwToggles_timeLog : (hwToggles s).timeLog = s.timeLog := by
  simp [hwToggles]

@[simp] theorem hwToggles_cbLog : (hwToggles s).cbLog = s.cbLog := by
  simp [hwToggles]

@[simp] theorem hwToggles_setupLog : (hwToggles s).setupLog = s.setupLog := by
  simp [hwToggles]

@[simp] theorem hwToggles_ret : (hwToggles s).ret = s.ret := by
  simp [hwToggles]

@[simp] theorem hwToggles_inbox : (hwToggles s).inbox = s.inbox := by
  simp [hwToggles]

theorem hwToggles_pipe (j : PipeId) : (hwToggles s).pipe j =
    if j.val < s.cfg.numPipes then { s.pipe j with toggle := (drawToggles s).1.getLsbD j.val } else s.pipe j := by
  simp only [hwToggles, setToggles_pipe, drawToggles_cfg, drawToggles_pipe]

theorem hwToggles_same (j : PipeId) : ((hwToggles s).pipe j).SameButToggle (s.pipe j) := by
  rw [hwToggles_pipe]
  split <;> rfl

end Sys2Proof.Machine
end

