-- ==== Sys2Proof/Laws/Frames.lean ====
section
/-! SUPPORT. The frame of every operation on one pipe: `OnlyPipe i s t` is an equivalence between states, and each
operation of pipe `i` stays inside it. -/

namespace Sys2Proof.Machine

variable {i : PipeId} {s t u : State}

theorem OnlyPipe.refl (i : PipeId) (s : State) : OnlyPipe i s s :=
  ⟨rfl, fun _ _ => rfl, fun _ => rfl, fun _ _ => rfl, fun _ _ => rfl, fun _ => rfl, rfl, rfl, rfl⟩

theorem OnlyPipe.symm (h : OnlyPipe i s t) : OnlyPipe i t s :=
  ⟨h.cfg.symm, fun j hj => (h.pipes j hj).symm, fun k => (h.links k).symm, fun x hx => (h.sts x hx).symm,
    fun x hx => (h.enb x hx).symm, fun hi => (h.ctrl hi).symm, h.evLog.symm, h.setupLog.symm, h.inbox.symm⟩

theorem OnlyPipe.trans (h : OnlyPipe i s t) (g : OnlyPipe i t u) : OnlyPipe i s u :=
  ⟨g.cfg.trans h.cfg, fun j hj => (g.pipes j hj).trans (h.pipes j hj), fun k => (g.links k).trans (h.links k),
    fun x hx => (g.sts x hx).trans (h.sts x hx), fun x hx => (g.enb x hx).trans (h.enb x hx),
    fun hi => (g.ctrl hi).trans (h.ctrl hi), g.evLog.trans h.evLog, g.setupLog.trans h.setupLog,
    g.inbox.trans h.inbox⟩

/-- To stay inside the frame is to keep it from any state. -/
theorem OnlyPipe.iff_of (g : OnlyPipe i t u) : OnlyPipe i s u ↔ OnlyPipe i s t :=
  ⟨fun h => h.trans g.symm, fun h => h.trans g⟩

/-! ### Primitive updates -/

@[simp] theorem onlyPipe_modPipe (f : Pipe → Pipe) : OnlyPipe i s (t.modPipe i f) ↔ OnlyPipe i s t :=
  OnlyPipe.iff_of (by constructor <;> simp +contextual [eq_comm])

@[simp] theorem onlyPipe_modPort (p : FPort) (f : Port → Port) : OnlyPipe i s (t.modPort p f) ↔ OnlyPipe i s t :=
  OnlyPipe.iff_of (by constructor <;> simp)

@[simp] theorem onlyPipe_modChan (p : DPort) (f : Chan → Chan) : OnlyPipe i s (t.modChan p f) ↔ OnlyPipe i s t :=
  OnlyPipe.iff_of (by constructor <;> simp)

@[simp] theorem onlyPipe_modCtrl (f : Ctrl → Ctrl) : OnlyPipe 0 s (t.modCtrl f) ↔ OnlyPipe 0 s t :=
  OnlyPipe.iff_of (by constructor <;> simp)

@[simp] theorem onlyPipe_returns (r : Status) : OnlyPipe i s (t.returns r) ↔ OnlyPipe i s t :=
  OnlyPipe.iff_of (by constructor <;> simp)

@[simp] theorem onlyPipe_setMem (m : Memory) : OnlyPipe i s (t.setMem m) ↔ OnlyPipe i s t :=
  OnlyPipe.iff_of (by constructor <;> simp)

@[simp] theorem onlyPipe_setDraws (d : Draws) : OnlyPipe i s (t.setDraws d) ↔ OnlyPipe i s t :=
  OnlyPipe.iff_of (by constructor <;> simp)

@[simp] theorem onlyPipe_addTx (l : List TxEntry) : OnlyPipe i s (t.addTx l) ↔ OnlyPipe i s t :=
  OnlyPipe.iff_of (by constructor <;> simp)

@[simp] theorem onlyPipe_addFifo (l : List FifoEntry) : OnlyPipe i s (t.addFifo l) ↔ OnlyPipe i s t :=
  OnlyPipe.iff_of (by constructor <;> simp)

@[simp] theorem onlyPipe_addTime (e : TimeEntry) : OnlyPipe i s (t.addTime e) ↔ OnlyPipe i s t :=
  OnlyPipe.iff_of (by constructor <;> simp)

@[simp] theorem onlyPipe_addCb (e : CbEntry) : OnlyPipe i s (t.addCb e) ↔ OnlyPipe i s t :=
  OnlyPipe.iff_of (by constructor <;> simp)

theorem onlyPipe_setSts (x : Source) (b : Bool) (hx : x.pipe? = some i) :
    OnlyPipe i s (t.setSts x b) ↔ OnlyPipe i s t :=
  OnlyPipe.iff_of (by
    constructor <;> simp
    intro y hy h
    exact absurd (h ▸ hx) hy)

theorem onlyPipe_setEnb (x : Source) (b : Bool) (hx : x.pipe? = some i) :
    OnlyPipe i s (t.setEnb x b) ↔ OnlyPipe i s t :=
  OnlyPipe.iff_of (by
    constructor <;> simp
    intro y hy h
    exact absurd (h ▸ hx) hy)

@[simp] theorem onlyPipe_setSts_brdy (b : Bool) : OnlyPipe i s (t.setSts (.brdy i) b) ↔ OnlyPipe i s t :=
  onlyPipe_setSts _ _ rfl

@[simp] theorem onlyPipe_setSts_nrdy (b : Bool) : OnlyPipe i s (t.setSts (.nrdy i) b) ↔ OnlyPipe i s t :=
  onlyPipe_setSts _ _ rfl

@[simp] theorem onlyPipe_setSts_bemp (b : Bool) : OnlyPipe i s (t.setSts (.bemp i) b) ↔ OnlyPipe i s t :=
  onlyPipe_setSts _ _ rfl

@[simp] theorem onlyPipe_setEnb_brdy (b : Bool) : OnlyPipe i s (t.setEnb (.brdy i) b) ↔ OnlyPipe i s t :=
  onlyPipe_setEnb _ _ rfl

@[simp] theorem onlyPipe_setEnb_nrdy (b : Bool) : OnlyPipe i s (t.setEnb (.nrdy i) b) ↔ OnlyPipe i s t :=
  onlyPipe_setEnb _ _ rfl

@[simp] theorem onlyPipe_setEnb_bemp (b : Bool) : OnlyPipe i s (t.setEnb (.bemp i) b) ↔ OnlyPipe i s t :=
  onlyPipe_setEnb _ _ rfl

/-! ### Shared operations -/

@[simp] theorem onlyPipe_disableSources : OnlyPipe i s (disableSources i t) ↔ OnlyPipe i s t := by
  simp [disableSources]

@[simp] theorem onlyPipe_clearStatus : OnlyPipe i s (clearStatus i t) ↔ OnlyPipe i s t := by
  simp [clearStatus]

@[simp] theorem onlyPipe_restoreSources (b n e : Bool) :
    OnlyPipe i s (restoreSources i b n e t) ↔ OnlyPipe i s t := by
  simp [restoreSources]

@[simp] theorem onlyPipe_drawClearPolls : OnlyPipe i s (drawClearPolls t).2 ↔ OnlyPipe i s t := by
  unfold drawClearPolls; split <;> simp

@[simp] theorem onlyPipe_clearPort (p : FPort) : OnlyPipe i s (clearPort p t).2 ↔ OnlyPipe i s t := by
  simp only [clearPort]; split <;> simp

@[simp] theorem onlyPipe_dropPort (p q : FPort) : OnlyPipe i s (dropPort i p q t) ↔ OnlyPipe i s t := by
  unfold dropPort; split <;> simp

@[simp] theorem onlyPipe_dropOthers (p : FPort) : OnlyPipe i s (dropOthers i p t) ↔ OnlyPipe i s t := by
  simp [dropOthers]

@[simp] theorem onlyPipe_bindOrWedge (p : FPort) : OnlyPipe i s (bindOrWedge i p t).2 ↔ OnlyPipe i s t := by
  simp only [bindOrWedge]; split <;> simp

@[simp] theorem onlyPipe_acquirePort (p : FPort) : OnlyPipe i s (acquirePort i p t).2 ↔ OnlyPipe i s t := by
  simp only [acquirePort]; split <;> simp

@[simp] theorem onlyPipe_ctrlDataDone (r : Result) : OnlyPipe 0 s (ctrlDataDone r t) ↔ OnlyPipe 0 s t := by
  unfold ctrlDataDone; split <;> [skip; split] <;> simp

@[simp] theorem onlyPipe_finish (d : Dir) (r : Result) : OnlyPipe i s (finish i d r t) ↔ OnlyPipe i s t := by
  simp only [finish, callback]
  split
  · rename_i h; subst h; simp
  · simp

@[simp] theorem onlyPipe_complete (d : Dir) (r : Result) : OnlyPipe i s (complete i d r t) ↔ OnlyPipe i s t := by
  simp only [complete]
  split
  · rename_i h; obtain ⟨h, -⟩ := h; subst h; simp
  · simp

@[simp] theorem onlyPipe_dropChan (p : DPort) : OnlyPipe i s (dropChan i p t) ↔ OnlyPipe i s t := by
  unfold dropChan; split <;> simp

@[simp] theorem onlyPipe_clearOwned (p : FPort) : OnlyPipe i s (clearOwned i p t) ↔ OnlyPipe i s t := by
  simp only [clearOwned]; split <;> [split; skip] <;> simp

@[simp] theorem onlyPipe_finishIfBusy (d : Dir) (r : Result) :
    OnlyPipe i s (finishIfBusy i d r t) ↔ OnlyPipe i s t := by
  unfold finishIfBusy; split <;> simp

@[simp] theorem onlyPipe_quiesce : OnlyPipe i s (quiesce i t) ↔ OnlyPipe i s t := by
  simp [quiesce]

@[simp] theorem onlyPipe_terminateAll (r : Result) : OnlyPipe i s (terminateAll i r t) ↔ OnlyPipe i s t := by
  simp [terminateAll]

@[simp] theorem onlyPipe_terminateIfBusy (r : Result) :
    OnlyPipe i s (terminateIfBusy i r t) ↔ OnlyPipe i s t := by
  unfold terminateIfBusy; split <;> simp

/-! ### Manager, CPU path, DMA path -/

@[simp] theorem onlyPipe_releasePipe : OnlyPipe i s (releasePipe i t) ↔ OnlyPipe i s t := by
  simp [releasePipe]

@[simp] theorem onlyPipe_acquireResult (r : Bool × State) :
    OnlyPipe i s (acquireResult i r) ↔ OnlyPipe i s r.2 := by
  unfold acquireResult; split <;> simp

@[simp] theorem onlyPipe_logFifo (p : FPort) (rw : Rw) (bs : List Byte) :
    OnlyPipe i s (logFifo p rw bs t) ↔ OnlyPipe i s t := by
  simp [logFifo]

@[simp] theorem onlyPipe_fifoWrite (p : FPort) (bs : List Byte) :
    OnlyPipe i s (fifoWrite p bs t) ↔ OnlyPipe i s t := by
  simp [fifoWrite]

@[simp] theorem onlyPipe_fifoRead (p : FPort) (n : Nat) :
    OnlyPipe i s (fifoRead p i n t).2 ↔ OnlyPipe i s t := by
  simp [fifoRead]

@[simp] theorem onlyPipe_commit (p : FPort) (b : Bool) : OnlyPipe i s (commit p i b t) ↔ OnlyPipe i s t := by
  simp [commit]

@[simp] theorem onlyPipe_advanceSlot (d : Dir) (n : Nat) :
    OnlyPipe i s (advanceSlot i d n t) ↔ OnlyPipe i s t := by
  simp [advanceSlot]

@[simp] theorem onlyPipe_writeOwned : OnlyPipe i s (writeOwned i t) ↔ OnlyPipe i s t := by
  simp only [writeOwned]; split <;> [skip; split] <;> simp

@[simp] theorem onlyPipe_writeChunk : OnlyPipe i s (writeChunk i t) ↔ OnlyPipe i s t := by
  simp only [writeChunk]; split <;> simp

@[simp] theorem onlyPipe_readOwned (pkt : List Byte) : OnlyPipe i s (readOwned i pkt t) ↔ OnlyPipe i s t := by
  simp only [readOwned]; repeat' split
  all_goals simp

@[simp] theorem onlyPipe_readChunk : OnlyPipe i s (readChunk i t) ↔ OnlyPipe i s t := by
  simp only [readChunk]; split <;> [skip; split] <;> simp

@[simp] theorem onlyPipe_armCpu (d : Dir) (b l c : Word) :
    OnlyPipe i s (armCpu i d b l c t) ↔ OnlyPipe i s t := by
  simp [armCpu]

@[simp] theorem onlyPipe_pushFirst (d : Dir) : OnlyPipe i s (pushFirst i d t) ↔ OnlyPipe i s t := by
  unfold pushFirst; split <;> simp

@[simp] theorem onlyPipe_startCommon (d : Dir) (b l c : Word) :
    OnlyPipe i s (startCommon i d b l c t) ↔ OnlyPipe i s t := by
  simp only [startCommon]; repeat' split
  all_goals simp

@[simp] theorem onlyPipe_handleBrdy : OnlyPipe i s (handleBrdy i t) ↔ OnlyPipe i s t := by
  simp only [handleBrdy]; split <;> [skip; split] <;> simp

@[simp] theorem onlyPipe_retryNotReady : OnlyPipe i s (retryNotReady i t) ↔ OnlyPipe i s t := by
  simp [retryNotReady, delay]

@[simp] theorem onlyPipe_handleNrdy : OnlyPipe i s (handleNrdy i t) ↔ OnlyPipe i s t := by
  simp only [handleNrdy]; repeat' split
  all_goals simp

@[simp] theorem onlyPipe_armDma (d : Dir) (b l c : Word) (p : DPort) :
    OnlyPipe i s (armDma i d b l c p t) ↔ OnlyPipe i s t := by
  simp [armDma]

@[simp] theorem onlyPipe_dmaStart (b l c : Word) (p : DPort) :
    OnlyPipe i s (dmaStart i b l p c t) ↔ OnlyPipe i s t := by
  simp only [dmaStart]; repeat' split
  all_goals simp

@[simp] theorem onlyPipe_dmaRemainder (d : Dir) : OnlyPipe i s (dmaRemainder i d t) ↔ OnlyPipe i s t := by
  simp only [dmaRemainder]; split <;> simp

@[simp] theorem onlyPipe_dmaEnd (p : DPort) (d : Dir) : OnlyPipe i s (dmaEnd p i d t) ↔ OnlyPipe i s t := by
  simp only [dmaEnd]; split <;> [skip; split] <;> simp

theorem onlyPipe_dmaComplete (p : DPort) (c : Chan) (hc : (t.chan p).pipe = c.pipe) :
    OnlyPipe c.pipe s (dmaComplete p c t) ↔ OnlyPipe c.pipe s t := by
  simp only [dmaComplete, dmaAccount, hc]; repeat' split
  all_goals simp

end Sys2Proof.Machine
end

