-- ==== Sys2Proof/Laws/LinkFrames.lean ====
section
/-! SUPPORT. The frame of every host-link operation: `OnlyLink k s t` is an equivalence between states, and each
operation on port `k` that touches no pipe stays inside it. -/

namespace Sys2Proof.Machine

variable {k : PortId} {s t u : State}

theorem OnlyLink.refl (k : PortId) (s : State) : OnlyLink k s s :=
  ⟨rfl, fun _ => rfl, fun _ => rfl, fun _ => rfl, fun _ _ => rfl, rfl, fun _ => rfl, fun _ _ => rfl, rfl, rfl,
    rfl, rfl, rfl, rfl⟩

theorem OnlyLink.symm (h : OnlyLink k s t) : OnlyLink k t s :=
  ⟨h.cfg.symm, fun j => (h.pipes j).symm, fun p => (h.ports p).symm, fun p => (h.chans p).symm,
    fun j hj => (h.links j hj).symm, h.ctrl.symm, fun x => (h.sts x).symm, fun x hx => (h.enb x hx).symm,
    h.mem.symm, h.txLog.symm, h.fifoLog.symm, h.cbLog.symm, h.setupLog.symm, h.inbox.symm⟩

theorem OnlyLink.trans (h : OnlyLink k s t) (g : OnlyLink k t u) : OnlyLink k s u :=
  ⟨g.cfg.trans h.cfg, fun j => (g.pipes j).trans (h.pipes j), fun p => (g.ports p).trans (h.ports p),
    fun p => (g.chans p).trans (h.chans p), fun j hj => (g.links j hj).trans (h.links j hj), g.ctrl.trans h.ctrl,
    fun x => (g.sts x).trans (h.sts x), fun x hx => (g.enb x hx).trans (h.enb x hx),
    g.mem.trans h.mem, g.txLog.trans h.txLog, g.fifoLog.trans h.fifoLog, g.cbLog.trans h.cbLog,
    g.setupLog.trans h.setupLog, g.inbox.trans h.inbox⟩

theorem OnlyLink.iff_of (g : OnlyLink k t u) : OnlyLink k s u ↔ OnlyLink k s t :=
  ⟨fun h => h.trans g.symm, fun h => h.trans g⟩

@[simp] theorem onlyLink_modLink (f : Link → Link) : OnlyLink k s (t.modLink k f) ↔ OnlyLink k s t :=
  OnlyLink.iff_of (by constructor <;> simp +contextual [eq_comm])

@[simp] theorem onlyLink_returns (r : Status) : OnlyLink k s (t.returns r) ↔ OnlyLink k s t :=
  OnlyLink.iff_of (by constructor <;> simp)

@[simp] theorem onlyLink_setDraws (d : Draws) : OnlyLink k s (t.setDraws d) ↔ OnlyLink k s t :=
  OnlyLink.iff_of (by constructor <;> simp)

@[simp] theorem onlyLink_addEv (e : EvEntry) : OnlyLink k s (t.addEv e) ↔ OnlyLink k s t :=
  OnlyLink.iff_of (by constructor <;> simp)

@[simp] theorem onlyLink_addTime (e : TimeEntry) : OnlyLink k s (t.addTime e) ↔ OnlyLink k s t :=
  OnlyLink.iff_of (by constructor <;> simp)

theorem onlyLink_setEnb (x : Source) (b : Bool) (hx : x.port? = some k) :
    OnlyLink k s (t.setEnb x b) ↔ OnlyLink k s t :=
  OnlyLink.iff_of (by
    constructor <;> simp
    intro y hy h
    exact absurd (h ▸ hx) hy)

@[simp] theorem onlyLink_gate : OnlyLink k s (gate k t) ↔ OnlyLink k s t := by
  simp only [gate]
  rw [onlyLink_setEnb _ _ rfl, onlyLink_setEnb _ _ rfl, onlyLink_setEnb _ _ rfl]

@[simp] theorem onlyLink_enterLink (x : LinkState) : OnlyLink k s (enterLink k x t) ↔ OnlyLink k s t := by
  simp [enterLink]

@[simp] theorem onlyLink_delay (n : Nat) : OnlyLink k s (delay n t) ↔ OnlyLink k s t := by
  simp [delay]

@[simp] theorem onlyLink_notify (e : Event) (v : Speed) : OnlyLink k s (notify e k v t) ↔ OnlyLink k s t := by
  simp [notify]

@[simp] theorem onlyLink_drawLineState : OnlyLink k s (drawLineState t).2 ↔ OnlyLink k s t := by
  unfold drawLineState; split <;> simp

@[simp] theorem onlyLink_drawHandshake (v : Speed) : OnlyLink k s (drawHandshake v t).2 ↔ OnlyLink k s t := by
  unfold drawHandshake; split <;> simp

@[simp] theorem onlyLink_debounce (n : Nat) (a : LineState) :
    OnlyLink k s (debounce n a t).2 ↔ OnlyLink k s t := by
  induction n generalizing a t with
  | zero => simp [debounce]
  | succ n ih =>
    simp only [debounce]
    split
    · simp
    · rw [ih]; simp

@[simp] theorem onlyLink_resetPoll (v : Speed) (n : Nat) :
    OnlyLink k s (resetPoll v n t).2 ↔ OnlyLink k s t := by
  induction n generalizing t with
  | zero => simp [resetPoll]
  | succ n ih =>
    simp only [resetPoll]
    split
    · simp
    · rw [ih]; simp

@[simp] theorem onlyLink_setLink (x : LinkState) (c : Conn) :
    OnlyLink k s (setLink k x c t) ↔ OnlyLink k s t := by
  simp [setLink]

@[simp] theorem onlyLink_attachOutcome (r : Option LineState × State) :
    OnlyLink k s (attachOutcome k r) ↔ OnlyLink k s r.2 := by
  unfold attachOutcome; split <;> simp

@[simp] theorem onlyLink_linkAttachProcess : OnlyLink k s (linkAttachProcess k t) ↔ OnlyLink k s t := by
  simp only [linkAttachProcess]; split <;> simp

@[simp] theorem onlyLink_assertReset (v : Speed) : OnlyLink k s (assertReset k v t) ↔ OnlyLink k s t := by
  simp [assertReset]

@[simp] theorem onlyLink_finishReset (v : Speed) : OnlyLink k s (finishReset k v t) ↔ OnlyLink k s t := by
  simp [finishReset]

@[simp] theorem onlyLink_linkBusReset : OnlyLink k s (linkBusReset k t) ↔ OnlyLink k s t := by
  simp only [linkBusReset]; split <;> simp

@[simp] theorem onlyLink_linkSetAddress (a : BitVec 7) :
    OnlyLink k s (linkSetAddress k a t) ↔ OnlyLink k s t := by
  simp only [linkSetAddress]; repeat' split
  all_goals simp

@[simp] theorem onlyLink_linkSuspend : OnlyLink k s (linkSuspend k t) ↔ OnlyLink k s t := by
  simp only [linkSuspend]; split <;> simp

@[simp] theorem onlyLink_linkResume : OnlyLink k s (linkResume k t) ↔ OnlyLink k s t := by
  simp only [linkResume]; split <;> simp

@[simp] theorem onlyLink_handleAttach : OnlyLink k s (handleAttach k t) ↔ OnlyLink k s t := by
  unfold handleAttach; split <;> simp

@[simp] theorem onlyLink_handleLinechg : OnlyLink k s (handleLinechg k t) ↔ OnlyLink k s t := by
  unfold handleLinechg; split <;> simp

end Sys2Proof.Machine
end

