-- ==== Sys2Proof/Laws/Memory.lean ====
section
/-! SUPPORT. Buffer memory (R61, R62): a byte reads back as it was written, a write leaves every other address alone, and
every memory operation keeps the canonical form. -/

namespace Sys2Proof.Machine

theorem read_filter_ne (m : Memory) (a b : Nat) (h : b ≠ a) :
    Memory.read (m.filter fun c => decide (c.1 ≠ a)) b = Memory.read m b := by
  induction m with
  | nil => rfl
  | cons c m ih =>
    obtain ⟨k, v⟩ := c
    by_cases hk : k = a
    · subst hk
      have : ¬ k = b := fun e => h e.symm
      simp only [ne_eq, not_true, decide_false, Bool.false_eq_true, not_false_eq_true, List.filter_cons_of_neg]
      simpa [Memory.read, this] using ih
    · simp only [ne_eq, hk, not_false_eq_true, decide_true, List.filter_cons_of_pos]
      simp only [Memory.read]
      split
      · rfl
      · simpa using ih

theorem read_filter_self (m : Memory) (a : Nat) :
    Memory.read (m.filter fun c => decide (c.1 ≠ a)) a = Memory.unlisted := by
  induction m with
  | nil => rfl
  | cons c m ih =>
    obtain ⟨k, v⟩ := c
    by_cases hk : k = a
    · simpa [hk] using ih
    · simp only [ne_eq, hk, not_false_eq_true, decide_true, List.filter_cons_of_pos]
      simp only [Memory.read, hk, if_false]
      simpa using ih

theorem read_insert (m : Memory) (a b : Nat) (v : Byte) (h : ∀ c ∈ m, c.1 ≠ a) :
    Memory.read (Memory.insert m a v) b = if a = b then v else Memory.read m b := by
  induction m with
  | nil => simp [Memory.insert, Memory.read]
  | cons c m ih =>
    obtain ⟨k, w⟩ := c
    have hk : k ≠ a := h (k, w) (by simp)
    have ih := ih (fun c hc => h c (by simp [hc]))
    simp only [Memory.insert]
    split
    · simp [Memory.read]
    · simp only [Memory.read, ih]
      by_cases e : k = b
      · have : ¬ a = b := fun x => hk (e.trans x.symm)
        simp [e, this]
      · simp [e]

/-- Read after write (R61). -/
theorem read_write (m : Memory) (a b : Nat) (v : Byte) :
    Memory.read (Memory.write m a v) b = if a = b then v else Memory.read m b := by
  unfold Memory.write
  by_cases e : a = b
  · subst e
    split
    · rename_i h
      rw [if_pos rfl, h]
      exact read_filter_self m a
    · rw [read_insert]
      · simp
      · intro c hc; simpa using (List.mem_filter.1 hc).2
  · simp only [e, if_false]
    split
    · exact read_filter_ne m a b (fun x => e x.symm)
    · rw [read_insert]
      · simp only [e, if_false]; exact read_filter_ne m a b (fun x => e x.symm)
      · intro c hc; simpa using (List.mem_filter.1 hc).2

theorem rising_mono {lo lo' : Nat} {m : Memory} (h : Memory.rising lo m = true) (hl : lo' ≤ lo) :
    Memory.rising lo' m = true := by
  cases m with
  | nil => rfl
  | cons c m =>
    simp only [Memory.rising, Bool.and_eq_true, decide_eq_true_eq] at h ⊢
    exact ⟨Nat.le_trans hl h.1, h.2⟩

theorem rising_filter (a : Nat) {lo : Nat} {m : Memory} (h : Memory.rising lo m = true) :
    Memory.rising lo (m.filter fun c => decide (c.1 ≠ a)) = true := by
  induction m generalizing lo with
  | nil => rfl
  | cons c m ih =>
    simp only [Memory.rising, Bool.and_eq_true, decide_eq_true_eq] at h
    have := ih h.2
    by_cases hk : c.1 = a
    · rw [List.filter_cons_of_neg (by simp [hk])]
      exact rising_mono this (by omega)
    · rw [List.filter_cons_of_pos (by simp [hk])]
      simpa [Memory.rising, h.1] using this

theorem rising_insert (a : Nat) (v : Byte) {lo : Nat} {m : Memory} (h : Memory.rising lo m = true) (hl : lo ≤ a)
    (hne : ∀ c ∈ m, c.1 ≠ a) : Memory.rising lo (Memory.insert m a v) = true := by
  induction m generalizing lo with
  | nil => simp [Memory.insert, Memory.rising, hl]
  | cons c m ih =>
    obtain ⟨k, w⟩ := c
    simp only [Memory.rising, Bool.and_eq_true, decide_eq_true_eq] at h
    have hk : k ≠ a := hne (k, w) (by simp)
    simp only [Memory.insert]
    split
    · rename_i hlt
      simp only [Memory.rising, Bool.and_eq_true, decide_eq_true_eq]
      exact ⟨hl, by omega, h.2⟩
    · simp only [Memory.rising, Bool.and_eq_true, decide_eq_true_eq]
      exact ⟨h.1, ih h.2 (by omega) (fun c hc => hne c (by simp [hc]))⟩

theorem mem_insert {m : Memory} {a : Nat} {v : Byte} {c : Host.Cell} (h : c ∈ Memory.insert m a v) :
    c = (a, v) ∨ c ∈ m := by
  induction m with
  | nil => simpa [Memory.insert] using h
  | cons d m ih =>
    obtain ⟨k, w⟩ := d
    simp only [Memory.insert] at h
    split at h
    · simpa using h
    · rcases List.mem_cons.1 h with h | h
      · exact .inr (by simp [h])
      · rcases ih h with h | h
        · exact .inl h
        · exact .inr (by simp [h])

/-- A byte write keeps the canonical form. -/
theorem wf_write {m : Memory} (a : Nat) (v : Byte) (ha : a < 2 ^ 32) (h : Memory.wf m = true) :
    Memory.wf (Memory.write m a v) = true := by
  simp only [Memory.wf, Bool.and_eq_true, List.all_eq_true, decide_eq_true_eq] at h ⊢
  unfold Memory.write
  split
  · exact ⟨rising_filter a h.1, fun c hc => h.2 c (List.mem_of_mem_filter hc)⟩
  · rename_i hv
    refine ⟨rising_insert a v (rising_filter a h.1) (Nat.zero_le _) ?_, ?_⟩
    · intro c hc; simpa using (List.mem_filter.1 hc).2
    · intro c hc
      rcases mem_insert hc with rfl | hc
      · exact ⟨ha, hv⟩
      · exact h.2 c (List.mem_of_mem_filter hc)

/-- `MemWrite` keeps the canonical form. -/
theorem wf_memWrite {m : Memory} (a : Word) (bs : List Byte) (h : Memory.wf m = true) :
    Memory.wf (memWrite m a bs) = true := by
  induction bs generalizing m a with
  | nil => exact h
  | cons b bs ih => exact ih _ (wf_write _ _ a.isLt h)

@[simp] theorem length_memRead (m : Memory) (a : Word) (n : Nat) : (memRead m a n).length = n := by
  induction n generalizing a with
  | zero => rfl
  | succ n ih => simp [memRead, ih]

/-- Byte `k` of `MemRead(addr, n)` (R61, R62). -/
theorem getElem_memRead (m : Memory) (a : Word) (n k : Nat) (h : k < (memRead m a n).length) :
    (memRead m a n)[k] = Memory.read m (a + BitVec.ofNat 32 k).toNat := by
  induction n generalizing a k with
  | zero => simp at h
  | succ n ih =>
    cases k with
    | zero => simp [memRead]
    | succ k =>
      simp only [memRead, List.getElem_cons_succ]
      rw [ih]
      congr 2
      rw [Nat.add_comm k 1, ← BitVec.ofNat_add_ofNat, ← BitVec.add_assoc]
      rfl

/-- `MemRead` of a longer range is the concatenation. -/
theorem memRead_add (m : Memory) (a : Word) (n k : Nat) :
    memRead m a (n + k) = memRead m a n ++ memRead m (a + BitVec.ofNat 32 n) k := by
  induction n generalizing a with
  | zero => simp [memRead]
  | succ n ih =>
    rw [Nat.succ_add]
    simp only [memRead, List.cons_append, ih]
    congr 3
    rw [Nat.add_comm n 1, ← BitVec.ofNat_add_ofNat, ← BitVec.add_assoc]
    rfl

/-- `MemWrite` leaves every address outside its range alone. -/
theorem read_memWrite_outside (m : Memory) (a : Word) (bs : List Byte) (x : Nat) (h : ¬ inRange a bs.length x) :
    Memory.read (memWrite m a bs) x = Memory.read m x := by
  induction bs generalizing m a with
  | nil => rfl
  | cons b bs ih =>
    simp only [memWrite]
    rw [ih, read_write, if_neg]
    · intro e
      exact h ⟨0, by simp, by simpa using e⟩
    · rintro ⟨k, hk, e⟩
      refine h ⟨k + 1, by simpa using hk, ?_⟩
      rw [← e, Nat.add_comm k 1, ← BitVec.ofNat_add_ofNat, ← BitVec.add_assoc]
      rfl

/-- `MemWrite` stores byte `k` at `addr + k`, when it does not wrap onto itself. -/
theorem read_memWrite_inside (m : Memory) (a : Word) (bs : List Byte) (k : Nat) (hk : k < bs.length)
    (hl : bs.length ≤ 2 ^ 32) : Memory.read (memWrite m a bs) (a + BitVec.ofNat 32 k).toNat = bs[k] := by
  induction bs generalizing m a k with
  | nil => simp at hk
  | cons b bs ih =>
    simp only [List.length_cons] at hk hl
    simp only [memWrite]
    cases k with
    | zero =>
      rw [read_memWrite_outside]
      · simp [read_write]
      · rintro ⟨j, hj, e⟩
        have e := BitVec.eq_of_toNat_eq e
        have := congrArg BitVec.toNat e
        have h1 : (1 : Word).toNat = 1 := rfl
        simp only [BitVec.toNat_add, BitVec.toNat_ofNat, h1] at this
        have ha := a.isLt
        omega
    | succ k =>
      simp only [List.getElem_cons_succ]
      rw [← ih (Memory.write m a.toNat b) (a + 1) k (by omega) (by omega)]
      congr 2
      rw [Nat.add_comm k 1, ← BitVec.ofNat_add_ofNat, ← BitVec.add_assoc]
      rfl

end Sys2Proof.Machine
end

