-- ==== Sys2Proof/Laws/PerInstr.lean ====
section
/-! SUPPORT. Statements made for every operation, one lemma per constructor (LAWS.json). -/

namespace Sys2Proof

/-- The two format bits `w0[7:6]` (R80); `EVT` has no record. -/
def Format.bits? : Format → Option (BitVec 2)
  | .cmd => some 0
  | .irq => some 1
  | .env => some 2
  | .evt => none

/-- The format bits of an input; none for a source id. -/
def Input.formatBits? : Input → Option (BitVec 2)
  | .record r => some (r.w0.extractLsb' 6 2)
  | .source _ => none

/-- The encoding of an operation carries the format bits of its format (R80). -/
def Laws.EncodesFormat.Statement (i : Instr) : Prop := (encode i).formatBits? = i.format.bits?

theorem packW0_format (op idx : BitVec 8) (f t : BitVec 2) (d : BitVec 1) :
    (packW0 op idx f t d).extractLsb' 6 2 = op.extractLsb' 6 2 := by
  simp only [packW0]
  apply BitVec.eq_of_getLsbD_eq
  intro j hj
  interval_cases j <;> simp

theorem Laws.EncodesFormat.configurePipe : ∀ x0 x1 x2 x3 x4, Laws.EncodesFormat.Statement (.configurePipe x0 x1 x2 x3 x4) :=
  fun _ _ _ _ _ => congrArg some (packW0_format _ _ _ _ _)

theorem Laws.EncodesFormat.releasePipe : ∀ x0, Laws.EncodesFormat.Statement (.releasePipe x0) :=
  fun _ => congrArg some (packW0_format _ _ _ _ _)

theorem Laws.EncodesFormat.acquirePort : ∀ x0 x1, Laws.EncodesFormat.Statement (.acquirePort x0 x1) :=
  fun _ _ => congrArg some (packW0_format _ _ _ _ _)

theorem Laws.EncodesFormat.read : ∀ x0 x1 x2 x3, Laws.EncodesFormat.Statement (.read x0 x1 x2 x3) :=
  fun _ _ _ _ => congrArg some (packW0_format _ _ _ _ _)

theorem Laws.EncodesFormat.write : ∀ x0 x1 x2 x3, Laws.EncodesFormat.Statement (.write x0 x1 x2 x3) :=
  fun _ _ _ _ => congrArg some (packW0_format _ _ _ _ _)

theorem Laws.EncodesFormat.stop : ∀ x0, Laws.EncodesFormat.Statement (.stop x0) :=
  fun _ => congrArg some (packW0_format _ _ _ _ _)

theorem Laws.EncodesFormat.dmaStart : ∀ x0 x1 x2 x3 x4, Laws.EncodesFormat.Statement (.dmaStart x0 x1 x2 x3 x4) :=
  fun _ _ _ _ _ => congrArg some (packW0_format _ _ _ _ _)

theorem Laws.EncodesFormat.linkAttachProcess : ∀ x0, Laws.EncodesFormat.Statement (.linkAttachProcess x0) :=
  fun _ => congrArg some (packW0_format _ _ _ _ _)

theorem Laws.EncodesFormat.linkBusReset : ∀ x0, Laws.EncodesFormat.Statement (.linkBusReset x0) :=
  fun _ => congrArg some (packW0_format _ _ _ _ _)

theorem Laws.EncodesFormat.linkSuspend : ∀ x0, Laws.EncodesFormat.Statement (.linkSuspend x0) :=
  fun _ => congrArg some (packW0_format _ _ _ _ _)

theorem Laws.EncodesFormat.linkResume : ∀ x0, Laws.EncodesFormat.Statement (.linkResume x0) :=
  fun _ => congrArg some (packW0_format _ _ _ _ _)

theorem Laws.EncodesFormat.linkSetAddress : ∀ x0 x1, Laws.EncodesFormat.Statement (.linkSetAddress x0 x1) :=
  fun _ _ => congrArg some (packW0_format _ _ _ _ _)

theorem Laws.EncodesFormat.ctrlAck : Laws.EncodesFormat.Statement .ctrlAck :=
  congrArg some (packW0_format _ _ _ _ _)

theorem Laws.EncodesFormat.ctrlStall : Laws.EncodesFormat.Statement .ctrlStall :=
  congrArg some (packW0_format _ _ _ _ _)

theorem Laws.EncodesFormat.ctrlData : ∀ x0 x1 x2, Laws.EncodesFormat.Statement (.ctrlData x0 x1 x2) :=
  fun _ _ _ => congrArg some (packW0_format _ _ _ _ _)

theorem Laws.EncodesFormat.usbIrq : Laws.EncodesFormat.Statement .usbIrq :=
  congrArg some (packW0_format _ _ _ _ _)

theorem Laws.EncodesFormat.dmaIrq : ∀ x0, Laws.EncodesFormat.Statement (.dmaIrq x0) :=
  fun _ => congrArg some (packW0_format _ _ _ _ _)

theorem Laws.EncodesFormat.hwRxPacket : ∀ x0 x1, Laws.EncodesFormat.Statement (.hwRxPacket x0 x1) :=
  fun _ _ => congrArg some (packW0_format _ _ _ _ _)

theorem Laws.EncodesFormat.hwTxReady : ∀ x0, Laws.EncodesFormat.Statement (.hwTxReady x0) :=
  fun _ => congrArg some (packW0_format _ _ _ _ _)

theorem Laws.EncodesFormat.hwNotReady : ∀ x0, Laws.EncodesFormat.Statement (.hwNotReady x0) :=
  fun _ => congrArg some (packW0_format _ _ _ _ _)

theorem Laws.EncodesFormat.hwStall : ∀ x0, Laws.EncodesFormat.Statement (.hwStall x0) :=
  fun _ => congrArg some (packW0_format _ _ _ _ _)

theorem Laws.EncodesFormat.hwBufEmpty : ∀ x0, Laws.EncodesFormat.Statement (.hwBufEmpty x0) :=
  fun _ => congrArg some (packW0_format _ _ _ _ _)

theorem Laws.EncodesFormat.hwAttach : ∀ x0, Laws.EncodesFormat.Statement (.hwAttach x0) :=
  fun _ => congrArg some (packW0_format _ _ _ _ _)

theorem Laws.EncodesFormat.hwDetach : ∀ x0, Laws.EncodesFormat.Statement (.hwDetach x0) :=
  fun _ => congrArg some (packW0_format _ _ _ _ _)

theorem Laws.EncodesFormat.hwLinechg : ∀ x0, Laws.EncodesFormat.Statement (.hwLinechg x0) :=
  fun _ => congrArg some (packW0_format _ _ _ _ _)

theorem Laws.EncodesFormat.hwSetup : ∀ x0, Laws.EncodesFormat.Statement (.hwSetup x0) :=
  fun _ => congrArg some (packW0_format _ _ _ _ _)

theorem Laws.EncodesFormat.hwStatusDone : Laws.EncodesFormat.Statement .hwStatusDone :=
  congrArg some (packW0_format _ _ _ _ _)

theorem Laws.EncodesFormat.hwSeqErr : Laws.EncodesFormat.Statement .hwSeqErr :=
  congrArg some (packW0_format _ _ _ _ _)

theorem Laws.EncodesFormat.dmaBlock : ∀ x0, Laws.EncodesFormat.Statement (.dmaBlock x0) :=
  fun _ => congrArg some (packW0_format _ _ _ _ _)

theorem Laws.EncodesFormat.hBrdy : ∀ x0, Laws.EncodesFormat.Statement (.hBrdy x0) :=
  fun _ => rfl

theorem Laws.EncodesFormat.hBemp : ∀ x0, Laws.EncodesFormat.Statement (.hBemp x0) :=
  fun _ => rfl

theorem Laws.EncodesFormat.hNrdy : ∀ x0, Laws.EncodesFormat.Statement (.hNrdy x0) :=
  fun _ => rfl

theorem Laws.EncodesFormat.hAttach : ∀ x0, Laws.EncodesFormat.Statement (.hAttach x0) :=
  fun _ => rfl

theorem Laws.EncodesFormat.hDetach : ∀ x0, Laws.EncodesFormat.Statement (.hDetach x0) :=
  fun _ => rfl

theorem Laws.EncodesFormat.hLinechg : ∀ x0, Laws.EncodesFormat.Statement (.hLinechg x0) :=
  fun _ => rfl

theorem Laws.EncodesFormat.hSetup : Laws.EncodesFormat.Statement .hSetup :=
  rfl

theorem Laws.EncodesFormat.hStsdone : Laws.EncodesFormat.Statement .hStsdone :=
  rfl

theorem Laws.EncodesFormat.hSeqerr : Laws.EncodesFormat.Statement .hSeqerr :=
  rfl

end Sys2Proof
end

