-- ==== Sys2Proof/Laws/Procedures.lean ====
section
/-! SUPPORT. What each shared procedure can do, said once: drawing a poll count (R106), `AcquirePort` (R104). Later proofs cite these and never unfold a procedure. -/

namespace Sys2Proof.Machine

variable {i : PipeId} {s t : State}

/-! ### Draws -/

/-- What is drawn depends on the draws alone. -/
theorem drawClearPolls_congr (h : t.draws = s.draws) : (drawClearPolls t).1 = (drawClearPolls s).1 := by
  unfold drawClearPolls
  rw [h]
  split <;> rfl

/-- What is left to draw depends on the draws alone. -/
theorem drawClearPolls_draws_congr (h : t.draws = s.draws) :
    (drawClearPolls t).2.draws = (drawClearPolls s).2.draws := by
  unfold drawClearPolls
  rw [h]
  split <;> rfl

/-- A draw changes nothing but the draws. -/
theorem drawClearPolls_state : (drawClearPolls s).2 = s.setDraws (drawClearPolls s).2.draws := by
  unfold drawClearPolls
  split <;> rfl

/-! ### Writing one enable bit twice -/

theorem setBit_setBit {w : Nat} (r : BitVec w) (k : Nat) (a b : Bool) : setBit (setBit r k a) k b = setBit r k b := by
  apply BitVec.eq_of_getLsbD_eq
  intro j hj
  simp only [getLsbD_setBit _ _ _ _ hj]
  split <;> rfl

/-- Saved enable bits, written back, are as they were (R104). -/
theorem setBit_restore {w : Nat} (r : BitVec w) (k : Nat) (a : Bool) : setBit (setBit r k a) k (r.getLsbD k) = r := by
  rw [setBit_setBit, setBit_self]

/-! ### `ClearPort` and `AcquirePort` -/

theorem clearPort_ok (f : FPort) (h : (drawClearPolls s).1 ≤ s.cfg.portClearMaxSpin) :
    clearPort f s = (true, (s.setDraws (drawClearPolls s).2.draws).modPort f fun q => { q with owner := none, stage := [] }) := by
  unfold clearPort
  rw [if_neg (by omega)]
  rw [← drawClearPolls_state]

theorem clearPort_fail (f : FPort) (h : s.cfg.portClearMaxSpin < (drawClearPolls s).1) :
    clearPort f s = (false, s.setDraws (drawClearPolls s).2.draws) := by
  unfold clearPort
  rw [if_pos h]
  rw [← drawClearPolls_state]

/-- One turn of the loop of R104, as an update of one port. -/
def Port.drop (i : PipeId) (x : Port) : Port := if x.owner = some i then { x with owner := none, stage := [] } else x

theorem dropPort_eq (p q : FPort) : dropPort i p q s = if q = p then s else s.modPort q (Port.drop i) := by
  unfold dropPort
  by_cases h : q = p
  · simp [h]
  · by_cases ho : (s.port q).owner = some i
    · simp only [if_neg h]; rw [if_pos ⟨h, ho⟩]; cases q <;> simp_all [State.modPort, Port.drop, State.port]
    · rw [if_neg (fun x => ho x.2), if_neg h]; cases q <;> simp_all [State.modPort, Port.drop, State.port]

theorem dropOthers_draws (f : FPort) : (dropOthers i f s).draws = s.draws := by
  simp only [dropOthers, dropPort]
  repeat' split
  all_goals simp

theorem dropOthers_cfg (f : FPort) : (dropOthers i f s).cfg = s.cfg := by
  simp only [dropOthers, dropPort]
  repeat' split
  all_goals simp

theorem acquirePort_owned (f : FPort) (h : (s.port f).owner = some i) : acquirePort i f s = (true, s) := by
  simp [acquirePort, h]

theorem acquirePort_taken (f : FPort) (ho : (s.port f).owner ≠ some i)
    (h : (drawClearPolls s).1 ≤ s.cfg.portClearMaxSpin) :
    (acquirePort i f s).1 = true ∧ PortTaken i f s (acquirePort i f s).2 := by
  have hd : (dropOthers i f (disableSources i s)).draws = s.draws := by rw [dropOthers_draws]; simp [disableSources]
  have hc : (dropOthers i f (disableSources i s)).cfg = s.cfg := by rw [dropOthers_cfg]; simp [disableSources]
  have hk := clearPort_ok (s := dropOthers i f (disableSources i s)) f (by rw [drawClearPolls_congr hd, hc]; exact h)
  simp only [acquirePort, if_neg ho, bindOrWedge, hk, if_true, drawClearPolls_draws_congr hd, true_and]
  constructor
  · cases f <;> simp [restoreSources, disableSources, dropOthers, dropPort_eq]
  · intro q hq
    cases f <;> cases q <;> simp_all [restoreSources, disableSources, dropOthers, dropPort_eq, Port.drop]
  · simp [restoreSources]
  · cases f <;> simp [restoreSources, disableSources, dropOthers, dropPort_eq, State.modPort, State.setEnb, State.setDraws, State.enb, Source.reg, setBit_restore]

theorem acquirePort_refused (f : FPort) (ho : (s.port f).owner ≠ some i)
    (h : s.cfg.portClearMaxSpin < (drawClearPolls s).1) :
    (acquirePort i f s).1 = false ∧ PortRefused i f s (acquirePort i f s).2 := by
  have hd : (dropOthers i f (disableSources i s)).draws = s.draws := by rw [dropOthers_draws]; simp [disableSources]
  have hc : (dropOthers i f (disableSources i s)).cfg = s.cfg := by rw [dropOthers_cfg]; simp [disableSources]
  have hk := clearPort_fail (s := dropOthers i f (disableSources i s)) f (by rw [drawClearPolls_congr hd, hc]; exact h)
  simp only [acquirePort, if_neg ho, bindOrWedge, hk, drawClearPolls_draws_congr hd, true_and, Bool.false_eq_true, if_false]
  constructor
  · cases f <;> simp [restoreSources, disableSources, dropOthers, dropPort_eq]
  · intro q hq
    cases f <;> cases q <;> simp_all [restoreSources, disableSources, dropOthers, dropPort_eq, Port.drop]
  · cases f <;> simp [restoreSources, disableSources, dropOthers, dropPort_eq]
  · intro j hj
    cases f <;> simp [restoreSources, disableSources, dropOthers, dropPort_eq, hj.symm]
  · simp [restoreSources]
  · cases f <;> simp [restoreSources, disableSources, dropOthers, dropPort_eq, State.modPort, State.modPipe, State.setEnb, State.setDraws, State.enb, Source.reg, setBit_restore]
/-- When `AcquirePort` answers ok (R104, R106). -/
theorem acquirePort_ok_iff (f : FPort) : (acquirePort i f s).1 = true ↔ s.CanAcquire i f := by
  unfold State.CanAcquire
  by_cases ho : (s.port f).owner = some i
  · simp [acquirePort_owned f ho, ho]
  · by_cases hd : (drawClearPolls s).1 ≤ s.cfg.portClearMaxSpin
    · simp [(acquirePort_taken f ho hd).1, hd]
    · simp [(acquirePort_refused f ho (Nat.lt_of_not_le hd)).1, ho, hd]

/-- What `AcquirePort` does when it answers ok (R104). -/
theorem acquirePort_acquired (f : FPort) (h : s.CanAcquire i f) : Acquired i f s (acquirePort i f s).2 := by
  unfold Acquired
  by_cases ho : (s.port f).owner = some i
  · simp [acquirePort_owned f ho, ho]
  · rw [if_neg ho]
    exact (acquirePort_taken f ho (h.resolve_left ho)).2

/-- What `AcquirePort` does when it fails (R104). -/
theorem acquirePort_failed (f : FPort) (h : ¬ s.CanAcquire i f) :
    (acquirePort i f s).1 = false ∧ PortRefused i f s (acquirePort i f s).2 := by
  unfold State.CanAcquire at h
  exact acquirePort_refused f (fun x => h (.inl x)) (Nat.lt_of_not_le fun x => h (.inr x))

end Sys2Proof.Machine
end

