-- ==== Sys2Proof/Laws/Termination.lean ====
section
/-! SUPPORT. The end of a request, said once: what `CtrlDataDone` (R198), `Finish`, `Complete` and `TerminateAll` (R130)
do to each field, and that `Complete` and `TerminateAll` do what `Completed` and `Terminated` of Safety.lean say. -/

namespace Sys2Proof.Machine

variable {i : PipeId} {s t : State}

@[simp] theorem slot_setSlot (q : Pipe) (d e : Dir) (x : Slot) : (q.setSlot d x).slot e = if d = e then x else q.slot e := by
  cases d <;> cases e <;> rfl

/-- The sources of pipe `i` (R83). -/
theorem pipe?_eq {x : Source} (h : x.pipe? = some i) : x = .brdy i ∨ x = .nrdy i ∨ x = .bemp i := by
  cases x <;> simp_all [Source.pipe?]

/-! ### `DisableSources` and `ClearStatus` -/

@[simp] theorem disableSources_cfg : (disableSources i s).cfg = s.cfg := by
  simp [disableSources]

@[simp] theorem disableSources_pipe (j : PipeId) : (disableSources i s).pipe j = s.pipe j := by
  simp [disableSources]

@[simp] theorem disableSources_port (q : FPort) : (disableSources i s).port q = s.port q := by
  simp [disableSources]

@[simp] theorem disableSources_chan (q : DPort) : (disableSources i s).chan q = s.chan q := by
  simp [disableSources]

@[simp] theorem disableSources_link (k : PortId) : (disableSources i s).link k = s.link k := by
  simp [disableSources]

@[simp] theorem disableSources_ctrl : (disableSources i s).ctrl = s.ctrl := by
  simp [disableSources]

@[simp] theorem disableSources_sts (y : Source) : (disableSources i s).sts y = s.sts y := by
  simp [disableSources]

@[simp] theorem disableSources_mem : (disableSources i s).mem = s.mem := by
  simp [disableSources]

@[simp] theorem disableSources_txLog : (disableSources i s).txLog = s.txLog := by
  simp [disableSources]

@[simp] theorem disableSources_fifoLog : (disableSources i s).fifoLog = s.fifoLog := by
  simp [disableSources]

@[simp] theorem disableSources_evLog : (disableSources i s).evLog = s.evLog := by
  simp [disableSources]

@[simp] theorem disableSources_timeLog : (disableSources i s).timeLog = s.timeLog := by
  simp [disableSources]

@[simp] theorem disableSources_cbLog : (disableSources i s).cbLog = s.cbLog := by
  simp [disableSources]

@[simp] theorem disableSources_setupLog : (disableSources i s).setupLog = s.setupLog := by
  simp [disableSources]

@[simp] theorem disableSources_ret : (disableSources i s).ret = s.ret := by
  simp [disableSources]

@[simp] theorem disableSources_draws : (disableSources i s).draws = s.draws := by
  simp [disableSources]

@[simp] theorem disableSources_inbox : (disableSources i s).inbox = s.inbox := by
  simp [disableSources]

@[simp] theorem clearStatus_cfg : (clearStatus i s).cfg = s.cfg := by
  simp [clearStatus]

@[simp] theorem clearStatus_pipe (j : PipeId) : (clearStatus i s).pipe j = s.pipe j := by
  simp [clearStatus]

@[simp] theorem clearStatus_port (q : FPort) : (clearStatus i s).port q = s.port q := by
  simp [clearStatus]

@[simp] theorem clearStatus_chan (q : DPort) : (clearStatus i s).chan q = s.chan q := by
  simp [clearStatus]

@[simp] theorem clearStatus_link (k : PortId) : (clearStatus i s).link k = s.link k := by
  simp [clearStatus]

@[simp] theorem clearStatus_ctrl : (clearStatus i s).ctrl = s.ctrl := by
  simp [clearStatus]

@[simp] theorem clearStatus_enb (y : Source) : (clearStatus i s).enb y = s.enb y := by
  simp [clearStatus]

@[simp] theorem clearStatus_mem : (clearStatus i s).mem = s.mem := by
  simp [clearStatus]

@[simp] theorem clearStatus_txLog : (clearStatus i s).txLog = s.txLog := by
  simp [clearStatus]

@[simp] theorem clearStatus_fifoLog : (clearStatus i s).fifoLog = s.fifoLog := by
  simp [clearStatus]

@[simp] theorem clearStatus_evLog : (clearStatus i s).evLog = s.evLog := by
  simp [clearStatus]

@[simp] theorem clearStatus_timeLog : (clearStatus i s).timeLog = s.timeLog := by
  simp [clearStatus]

@[simp] theorem clearStatus_cbLog : (clearStatus i s).cbLog = s.cbLog := by
  simp [clearStatus]

@[simp] theorem clearStatus_setupLog : (clearStatus i s).setupLog = s.setupLog := by
  simp [clearStatus]

@[simp] theorem clearStatus_ret : (clearStatus i s).ret = s.ret := by
  simp [clearStatus]

@[simp] theorem clearStatus_draws : (clearStatus i s).draws = s.draws := by
  simp [clearStatus]

@[simp] theorem clearStatus_inbox : (clearStatus i s).inbox = s.inbox := by
  simp [clearStatus]

/-! ### `CtrlDataDone` -/

@[simp] theorem ctrlDataDone_cfg (r : Result) : (ctrlDataDone r s).cfg = s.cfg := by
  unfold ctrlDataDone; split <;> [rfl; (split <;> simp)]

@[simp] theorem ctrlDataDone_port (r : Result) (q : FPort) : (ctrlDataDone r s).port q = s.port q := by
  unfold ctrlDataDone; split <;> [rfl; (split <;> simp)]

@[simp] theorem ctrlDataDone_chan (r : Result) (q : DPort) : (ctrlDataDone r s).chan q = s.chan q := by
  unfold ctrlDataDone; split <;> [rfl; (split <;> simp)]

@[simp] theorem ctrlDataDone_link (r : Result) (k : PortId) : (ctrlDataDone r s).link k = s.link k := by
  unfold ctrlDataDone; split <;> [rfl; (split <;> simp)]

@[simp] theorem ctrlDataDone_sts (r : Result) (y : Source) : (ctrlDataDone r s).sts y = s.sts y := by
  unfold ctrlDataDone; split <;> [rfl; (split <;> simp)]

@[simp] theorem ctrlDataDone_enb (r : Result) (y : Source) : (ctrlDataDone r s).enb y = s.enb y := by
  unfold ctrlDataDone; split <;> [rfl; (split <;> simp)]

@[simp] theorem ctrlDataDone_mem (r : Result) : (ctrlDataDone r s).mem = s.mem := by
  unfold ctrlDataDone; split <;> [rfl; (split <;> simp)]

@[simp] theorem ctrlDataDone_txLog (r : Result) : (ctrlDataDone r s).txLog = s.txLog := by
  unfold ctrlDataDone; split <;> [rfl; (split <;> simp)]

@[simp] theorem ctrlDataDone_fifoLog (r : Result) : (ctrlDataDone r s).fifoLog = s.fifoLog := by
  unfold ctrlDataDone; split <;> [rfl; (split <;> simp)]

@[simp] theorem ctrlDataDone_evLog (r : Result) : (ctrlDataDone r s).evLog = s.evLog := by
  unfold ctrlDataDone; split <;> [rfl; (split <;> simp)]

@[simp] theorem ctrlDataDone_timeLog (r : Result) : (ctrlDataDone r s).timeLog = s.timeLog := by
  unfold ctrlDataDone; split <;> [rfl; (split <;> simp)]

@[simp] theorem ctrlDataDone_cbLog (r : Result) : (ctrlDataDone r s).cbLog = s.cbLog := by
  unfold ctrlDataDone; split <;> [rfl; (split <;> simp)]

@[simp] theorem ctrlDataDone_setupLog (r : Result) : (ctrlDataDone r s).setupLog = s.setupLog := by
  unfold ctrlDataDone; split <;> [rfl; (split <;> simp)]

@[simp] theorem ctrlDataDone_ret (r : Result) : (ctrlDataDone r s).ret = s.ret := by
  unfold ctrlDataDone; split <;> [rfl; (split <;> simp)]

@[simp] theorem ctrlDataDone_draws (r : Result) : (ctrlDataDone r s).draws = s.draws := by
  unfold ctrlDataDone; split <;> [rfl; (split <;> simp)]

@[simp] theorem ctrlDataDone_inbox (r : Result) : (ctrlDataDone r s).inbox = s.inbox := by
  unfold ctrlDataDone; split <;> [rfl; (split <;> simp)]

/-! ### `Finish` -/

@[simp] theorem finish_cfg (d : Dir) (r : Result) : (finish i d r s).cfg = s.cfg := by
  unfold finish; dsimp only; split <;> simp [callback]

@[simp] theorem finish_port (d : Dir) (r : Result) (q : FPort) : (finish i d r s).port q = s.port q := by
  unfold finish; dsimp only; split <;> simp [callback]

@[simp] theorem finish_chan (d : Dir) (r : Result) (q : DPort) : (finish i d r s).chan q = s.chan q := by
  unfold finish; dsimp only; split <;> simp [callback]

@[simp] theorem finish_link (d : Dir) (r : Result) (k : PortId) : (finish i d r s).link k = s.link k := by
  unfold finish; dsimp only; split <;> simp [callback]

@[simp] theorem finish_sts (d : Dir) (r : Result) (y : Source) : (finish i d r s).sts y = s.sts y := by
  unfold finish; dsimp only; split <;> simp [callback]

@[simp] theorem finish_enb (d : Dir) (r : Result) (y : Source) : (finish i d r s).enb y = s.enb y := by
  unfold finish; dsimp only; split <;> simp [callback]

@[simp] theorem finish_mem (d : Dir) (r : Result) : (finish i d r s).mem = s.mem := by
  unfold finish; dsimp only; split <;> simp [callback]

@[simp] theorem finish_txLog (d : Dir) (r : Result) : (finish i d r s).txLog = s.txLog := by
  unfold finish; dsimp only; split <;> simp [callback]

@[simp] theorem finish_fifoLog (d : Dir) (r : Result) : (finish i d r s).fifoLog = s.fifoLog := by
  unfold finish; dsimp only; split <;> simp [callback]

@[simp] theorem finish_evLog (d : Dir) (r : Result) : (finish i d r s).evLog = s.evLog := by
  unfold finish; dsimp only; split <;> simp [callback]

@[simp] theorem finish_timeLog (d : Dir) (r : Result) : (finish i d r s).timeLog = s.timeLog := by
  unfold finish; dsimp only; split <;> simp [callback]

@[simp] theorem finish_setupLog (d : Dir) (r : Result) : (finish i d r s).setupLog = s.setupLog := by
  unfold finish; dsimp only; split <;> simp [callback]

@[simp] theorem finish_ret (d : Dir) (r : Result) : (finish i d r s).ret = s.ret := by
  unfold finish; dsimp only; split <;> simp [callback]

@[simp] theorem finish_draws (d : Dir) (r : Result) : (finish i d r s).draws = s.draws := by
  unfold finish; dsimp only; split <;> simp [callback]

@[simp] theorem finish_inbox (d : Dir) (r : Result) : (finish i d r s).inbox = s.inbox := by
  unfold finish; dsimp only; split <;> simp [callback]


theorem disableSources_enb (y : Source) : (disableSources i s).enb y = (s.enb y && decide (y.pipe? ≠ some i)) := by
  by_cases h : y.pipe? = some i
  · obtain rfl | rfl | rfl := pipe?_eq h <;> simp [disableSources, Source.pipe?]
  · cases y <;> simp_all [disableSources, Source.pipe?, eq_comm]

theorem clearStatus_sts (y : Source) : (clearStatus i s).sts y = (s.sts y && decide (y.pipe? ≠ some i)) := by
  by_cases h : y.pipe? = some i
  · obtain rfl | rfl | rfl := pipe?_eq h <;> simp [clearStatus, Source.pipe?]
  · cases y <;> simp_all [clearStatus, Source.pipe?, eq_comm]

/-- `CtrlDataDone` (R198) acts only while the data stage is under way. -/
theorem ctrlDataDone_eq (r : Result) : ctrlDataDone r s =
    if s.inDataStage 0 then
      (if r = .exact ∨ r = .shortPacket then
        (s.modPipe 0 fun q => { q with pid := .buf }).modCtrl fun c => { c with statusEn := true, state := .cStatusStage }
      else
        (s.modPipe 0 fun q => { q with pid := .stall }).modCtrl fun c => { c with statusEn := false, state := .cStalled })
    else s := by
  unfold ctrlDataDone
  by_cases h : s.inDataStage 0 = true
  · have h' : ¬ (s.cfg.mode ≠ .peripheral ∨ s.ctrl.state ≠ .cDataStage) := by
      simp [State.inDataStage] at h; tauto
    rw [if_neg h', if_pos h]
  · have h' : s.cfg.mode ≠ .peripheral ∨ s.ctrl.state ≠ .cDataStage := by
      simp [State.inDataStage] at h; tauto
    rw [if_pos h', if_neg h]

theorem ctrlDataDone_pipe (r : Result) (j : PipeId) : (ctrlDataDone r s).pipe j =
    if j = 0 ∧ s.inDataStage 0 = true then
      { s.pipe 0 with pid := if r = .exact ∨ r = .shortPacket then .buf else .stall }
    else s.pipe j := by
  rw [ctrlDataDone_eq]
  by_cases h : s.inDataStage 0 = true <;> by_cases hr : r = .exact ∨ r = .shortPacket <;> by_cases hj : j = 0 <;>
    simp [h, hr, hj, eq_comm]

theorem ctrlDataDone_ctrl (r : Result) : (ctrlDataDone r s).ctrl =
    if s.inDataStage 0 then
      (if r = .exact ∨ r = .shortPacket then { s.ctrl with statusEn := true, state := .cStatusStage }
       else { s.ctrl with statusEn := false, state := .cStalled })
    else s.ctrl := by
  rw [ctrlDataDone_eq]
  split
  · split <;> simp
  · rfl

theorem finish_cbLog (d : Dir) (r : Result) : (finish i d r s).cbLog = s.cbLog ++
    [⟨((s.pipe i).slot d).cb, i, r, ((s.pipe i).slot d).reqLen.toNat - ((s.pipe i).slot d).remaining.toNat⟩] := by
  unfold finish; dsimp only; split <;> simp [callback]

theorem inDataStage_congr {j : PipeId} (hc : t.cfg = s.cfg) (hr : t.ctrl = s.ctrl) :
    t.inDataStage j = s.inDataStage j := by
  simp only [State.inDataStage, hc, hr]

@[simp] theorem inDataStage_modPipe (j k : PipeId) (f : Pipe → Pipe) :
    (s.modPipe j f).inDataStage k = s.inDataStage k := rfl

@[simp] theorem inDataStage_modPort (p : FPort) (f : Port → Port) (k : PipeId) :
    (s.modPort p f).inDataStage k = s.inDataStage k := by cases p <;> rfl

@[simp] theorem inDataStage_modChan (p : DPort) (f : Chan → Chan) (k : PipeId) :
    (s.modChan p f).inDataStage k = s.inDataStage k := by cases p <;> rfl

@[simp] theorem inDataStage_setDraws (d : Draws) (k : PipeId) : (s.setDraws d).inDataStage k = s.inDataStage k := rfl

@[simp] theorem inDataStage_addCb (e : CbEntry) (k : PipeId) : (s.addCb e).inDataStage k = s.inDataStage k := rfl

@[simp] theorem inDataStage_disableSources (j k : PipeId) :
    (disableSources j s).inDataStage k = s.inDataStage k := inDataStage_congr (by simp) (by simp)

@[simp] theorem inDataStage_clearStatus (j k : PipeId) :
    (clearStatus j s).inDataStage k = s.inDataStage k := inDataStage_congr (by simp) (by simp)

theorem inDataStage_of_ne (h : i ≠ 0) : s.inDataStage i = false := by simp [State.inDataStage, h]

theorem finish_pipe (d : Dir) (r : Result) (j : PipeId) : (finish i d r s).pipe j =
    if j = i then
      { (s.pipe i).setSlot d Slot.empty with
        pid := if s.inDataStage i then (if r = .exact ∨ r = .shortPacket then .buf else .stall) else (s.pipe i).pid }
    else s.pipe j := by
  unfold finish; dsimp only
  by_cases hi : i = 0
  · subst hi
    rw [if_pos rfl, ctrlDataDone_pipe]
    by_cases hj : j = 0
    · subst hj
      cases h : s.inDataStage 0 <;> simp [callback, h] <;> cases d <;> rfl
    · simp [hj, Ne.symm hj, callback]
  · rw [if_neg hi, inDataStage_of_ne hi]
    by_cases hj : j = i
    · subst hj; simp [callback]; cases d <;> rfl
    · simp [hj, Ne.symm hj, callback]

theorem finish_ctrl (d : Dir) (r : Result) : (finish i d r s).ctrl =
    if s.inDataStage i then
      (if r = .exact ∨ r = .shortPacket then { s.ctrl with statusEn := true, state := .cStatusStage }
       else { s.ctrl with statusEn := false, state := .cStalled })
    else s.ctrl := by
  unfold finish; dsimp only
  by_cases hi : i = 0
  · subst hi
    rw [if_pos rfl, ctrlDataDone_ctrl]; rfl
  · rw [if_neg hi, inDataStage_of_ne hi]; simp [callback]

/-- `Complete` (R130) before it frees the slot. -/
def beforeFinish (i : PipeId) (d : Dir) (s : State) : State :=
  if s.goesOn i d then
    s.modPipe i fun q => { q with ignoreCnt := 0, trncnt := 0, curDir := d.other }
  else (disableSources i s).modPipe i fun q => { q with ignoreCnt := 0, trncnt := 0, pid := .nak }

@[simp] theorem beforeFinish_cfg (d : Dir) : (beforeFinish i d s).cfg = s.cfg := by
  unfold beforeFinish; split <;> simp

@[simp] theorem beforeFinish_port (d : Dir) (q : FPort) : (beforeFinish i d s).port q = s.port q := by
  unfold beforeFinish; split <;> simp

@[simp] theorem beforeFinish_chan (d : Dir) (q : DPort) : (beforeFinish i d s).chan q = s.chan q := by
  unfold beforeFinish; split <;> simp

@[simp] theorem beforeFinish_link (d : Dir) (k : PortId) : (beforeFinish i d s).link k = s.link k := by
  unfold beforeFinish; split <;> simp

@[simp] theorem beforeFinish_ctrl (d : Dir) : (beforeFinish i d s).ctrl = s.ctrl := by
  unfold beforeFinish; split <;> simp

@[simp] theorem beforeFinish_sts (d : Dir) (y : Source) : (beforeFinish i d s).sts y = s.sts y := by
  unfold beforeFinish; split <;> simp

@[simp] theorem beforeFinish_mem (d : Dir) : (beforeFinish i d s).mem = s.mem := by
  unfold beforeFinish; split <;> simp

@[simp] theorem beforeFinish_txLog (d : Dir) : (beforeFinish i d s).txLog = s.txLog := by
  unfold beforeFinish; split <;> simp

@[simp] theorem beforeFinish_fifoLog (d : Dir) : (beforeFinish i d s).fifoLog = s.fifoLog := by
  unfold beforeFinish; split <;> simp

@[simp] theorem beforeFinish_evLog (d : Dir) : (beforeFinish i d s).evLog = s.evLog := by
  unfold beforeFinish; split <;> simp

@[simp] theorem beforeFinish_timeLog (d : Dir) : (beforeFinish i d s).timeLog = s.timeLog := by
  unfold beforeFinish; split <;> simp

@[simp] theorem beforeFinish_cbLog (d : Dir) : (beforeFinish i d s).cbLog = s.cbLog := by
  unfold beforeFinish; split <;> simp

@[simp] theorem beforeFinish_setupLog (d : Dir) : (beforeFinish i d s).setupLog = s.setupLog := by
  unfold beforeFinish; split <;> simp

@[simp] theorem beforeFinish_ret (d : Dir) : (beforeFinish i d s).ret = s.ret := by
  unfold beforeFinish; split <;> simp

@[simp] theorem beforeFinish_draws (d : Dir) : (beforeFinish i d s).draws = s.draws := by
  unfold beforeFinish; split <;> simp

@[simp] theorem beforeFinish_inbox (d : Dir) : (beforeFinish i d s).inbox = s.inbox := by
  unfold beforeFinish; split <;> simp

theorem modPipe_modPipe (j : PipeId) (f g : Pipe → Pipe) :
    (s.modPipe j f).modPipe j g = s.modPipe j fun q => g (f q) := by
  simp [State.modPipe, State.pipe]

theorem complete_eq (d : Dir) (r : Result) : complete i d r s = finish i d r (beforeFinish i d s) := by
  unfold complete beforeFinish State.goesOn
  dsimp only
  congr 1
  have hs : ((s.modPipe i fun q => { q with ignoreCnt := 0, trncnt := 0 }).pipe 0).slot d.other =
      (s.pipe 0).slot d.other := by
    by_cases hi : i = 0
    · subst hi; cases d <;> simp [Pipe.slot, Dir.other]
    · simp [hi]
  rw [hs]
  by_cases h : i = 0 ∧ ((s.pipe 0).slot d.other).state ≠ .idle
  · rw [if_pos h, if_pos (by simpa using h), h.1, modPipe_modPipe]
  · rw [if_neg h, if_neg (by simpa using h)]
    exact (show (disableSources i (s.modPipe i _)).modPipe i _ = ((disableSources i s).modPipe i _).modPipe i _
      from rfl).trans (modPipe_modPipe _ _ _)

/-- `Complete` (R130) does what `Completed` says. -/
theorem complete_completed (d : Dir) (res : Result) : Completed i d res s (complete i d res s) := by
  rw [complete_eq]
  have hb : (beforeFinish i d s).inDataStage i = s.inDataStage i := inDataStage_congr (by simp) (by simp)
  constructor
  case frame => simp [beforeFinish]; split <;> simp [OnlyPipe.refl]
  case callbacks => rw [finish_cbLog]; unfold beforeFinish; split <;> cases d <;> simp [Pipe.slot]
  case record =>
    rw [finish_pipe, if_pos rfl, hb]; unfold beforeFinish; split <;> simp_all <;> cases d <;> simp [Pipe.setSlot]
  case ctrl => rw [finish_ctrl, hb, beforeFinish_ctrl]
  case enb => intro x hx; unfold beforeFinish; split <;> simp_all [disableSources_enb]
  all_goals simp
/-! ### The channel teardown and the port clear of `TerminateAll` -/

@[simp] theorem dropChan_cfg (p : DPort) : (dropChan i p s).cfg = s.cfg := by
  unfold dropChan; split <;> simp

@[simp] theorem dropChan_pipe (p : DPort) (j : PipeId) : (dropChan i p s).pipe j = s.pipe j := by
  unfold dropChan; split <;> simp

@[simp] theorem dropChan_link (p : DPort) (k : PortId) : (dropChan i p s).link k = s.link k := by
  unfold dropChan; split <;> simp

@[simp] theorem dropChan_ctrl (p : DPort) : (dropChan i p s).ctrl = s.ctrl := by
  unfold dropChan; split <;> simp

@[simp] theorem dropChan_sts (p : DPort) (y : Source) : (dropChan i p s).sts y = s.sts y := by
  unfold dropChan; split <;> simp

@[simp] theorem dropChan_enb (p : DPort) (y : Source) : (dropChan i p s).enb y = s.enb y := by
  unfold dropChan; split <;> simp

@[simp] theorem dropChan_mem (p : DPort) : (dropChan i p s).mem = s.mem := by
  unfold dropChan; split <;> simp

@[simp] theorem dropChan_txLog (p : DPort) : (dropChan i p s).txLog = s.txLog := by
  unfold dropChan; split <;> simp

@[simp] theorem dropChan_fifoLog (p : DPort) : (dropChan i p s).fifoLog = s.fifoLog := by
  unfold dropChan; split <;> simp

@[simp] theorem dropChan_evLog (p : DPort) : (dropChan i p s).evLog = s.evLog := by
  unfold dropChan; split <;> simp

@[simp] theorem dropChan_timeLog (p : DPort) : (dropChan i p s).timeLog = s.timeLog := by
  unfold dropChan; split <;> simp

@[simp] theorem dropChan_cbLog (p : DPort) : (dropChan i p s).cbLog = s.cbLog := by
  unfold dropChan; split <;> simp

@[simp] theorem dropChan_setupLog (p : DPort) : (dropChan i p s).setupLog = s.setupLog := by
  unfold dropChan; split <;> simp

@[simp] theorem dropChan_ret (p : DPort) : (dropChan i p s).ret = s.ret := by
  unfold dropChan; split <;> simp

@[simp] theorem dropChan_draws (p : DPort) : (dropChan i p s).draws = s.draws := by
  unfold dropChan; split <;> simp

@[simp] theorem dropChan_inbox (p : DPort) : (dropChan i p s).inbox = s.inbox := by
  unfold dropChan; split <;> simp

theorem dropChan_chan (p q : DPort) : (dropChan i p s).chan q =
    if p = q ∧ (s.chan q).bound = true ∧ (s.chan q).pipe = i then
      { s.chan q with armed := false, bound := false, done := false }
    else s.chan q := by
  unfold dropChan
  by_cases h : p = q
  · subst h; split <;> rename_i h <;> simp [h]
  · split <;> simp [h]

theorem dropChan_port (p : DPort) (f : FPort) : (dropChan i p s).port f =
    if p.fport = f ∧ (s.chan p).bound = true ∧ (s.chan p).pipe = i then { s.port f with dreq := false }
    else s.port f := by
  unfold dropChan
  by_cases h : p.fport = f
  · subst h; split <;> rename_i h <;> simp [h]
  · split <;> simp [h]

theorem clearOwned_eq (p : FPort) : clearOwned i p s =
    if (s.port p).owner = some i then
      (if (drawClearPolls s).1 ≤ s.cfg.portClearMaxSpin then
        (s.setDraws (drawClearPolls s).2.draws).modPort p fun q => { q with owner := none, stage := [] }
      else (s.setDraws (drawClearPolls s).2.draws).modPipe i fun q => { q with wedged := true })
    else s := by
  unfold clearOwned
  split
  · split
    · rename_i h; simp [clearPort_ok p h]
    · rename_i h; simp [clearPort_fail p (Nat.lt_of_not_le h)]
  · rfl

@[simp] theorem clearOwned_cfg (p : FPort) : (clearOwned i p s).cfg = s.cfg := by
  rw [clearOwned_eq]; (repeat' split) <;> simp

@[simp] theorem clearOwned_chan (p : FPort) (q : DPort) : (clearOwned i p s).chan q = s.chan q := by
  rw [clearOwned_eq]; (repeat' split) <;> simp

@[simp] theorem clearOwned_link (p : FPort) (k : PortId) : (clearOwned i p s).link k = s.link k := by
  rw [clearOwned_eq]; (repeat' split) <;> simp

@[simp] theorem clearOwned_ctrl (p : FPort) : (clearOwned i p s).ctrl = s.ctrl := by
  rw [clearOwned_eq]; (repeat' split) <;> simp

@[simp] theorem clearOwned_sts (p : FPort) (y : Source) : (clearOwned i p s).sts y = s.sts y := by
  rw [clearOwned_eq]; (repeat' split) <;> simp

@[simp] theorem clearOwned_enb (p : FPort) (y : Source) : (clearOwned i p s).enb y = s.enb y := by
  rw [clearOwned_eq]; (repeat' split) <;> simp

@[simp] theorem clearOwned_mem (p : FPort) : (clearOwned i p s).mem = s.mem := by
  rw [clearOwned_eq]; (repeat' split) <;> simp

@[simp] theorem clearOwned_txLog (p : FPort) : (clearOwned i p s).txLog = s.txLog := by
  rw [clearOwned_eq]; (repeat' split) <;> simp

@[simp] theorem clearOwned_fifoLog (p : FPort) : (clearOwned i p s).fifoLog = s.fifoLog := by
  rw [clearOwned_eq]; (repeat' split) <;> simp

@[simp] theorem clearOwned_evLog (p : FPort) : (clearOwned i p s).evLog = s.evLog := by
  rw [clearOwned_eq]; (repeat' split) <;> simp

@[simp] theorem clearOwned_timeLog (p : FPort) : (clearOwned i p s).timeLog = s.timeLog := by
  rw [clearOwned_eq]; (repeat' split) <;> simp

@[simp] theorem clearOwned_cbLog (p : FPort) : (clearOwned i p s).cbLog = s.cbLog := by
  rw [clearOwned_eq]; (repeat' split) <;> simp

@[simp] theorem clearOwned_setupLog (p : FPort) : (clearOwned i p s).setupLog = s.setupLog := by
  rw [clearOwned_eq]; (repeat' split) <;> simp

@[simp] theorem clearOwned_ret (p : FPort) : (clearOwned i p s).ret = s.ret := by
  rw [clearOwned_eq]; (repeat' split) <;> simp

@[simp] theorem clearOwned_inbox (p : FPort) : (clearOwned i p s).inbox = s.inbox := by
  rw [clearOwned_eq]; (repeat' split) <;> simp

theorem clearOwned_pipe (p : FPort) (j : PipeId) : (clearOwned i p s).pipe j =
    if j = i then { s.pipe i with wedged := ((clearOwned i p s).pipe i).wedged } else s.pipe j := by
  rw [clearOwned_eq]
  by_cases h : j = i
  · subst h; rw [if_pos rfl]; (repeat' split) <;> simp
  · rw [if_neg h]; (repeat' split) <;> simp [Ne.symm h]

theorem clearOwned_wedged (p : FPort) (h : (s.pipe i).wedged = true) : ((clearOwned i p s).pipe i).wedged = true := by
  rw [clearOwned_eq]; (repeat' split) <;> simp [h]

theorem clearOwned_port_ne (p q : FPort) (h : p ≠ q) : (clearOwned i p s).port q = s.port q := by
  rw [clearOwned_eq]; (repeat' split) <;> simp [h]

theorem clearOwned_dreq (p q : FPort) : ((clearOwned i p s).port q).dreq = (s.port q).dreq := by
  rw [clearOwned_eq]; (repeat' split) <;> simp; split <;> simp_all

theorem clearOwned_unowned (p : FPort) (h : (s.port p).owner ≠ some i) : clearOwned i p s = s := by
  rw [clearOwned_eq, if_neg h]

/-- An owned port is cleared, or the pipe is wedged. -/
theorem clearOwned_owned (p : FPort) (h : (s.port p).owner = some i) :
    (clearOwned i p s).draws = (drawClearPolls s).2.draws ∧
    (if (drawClearPolls s).1 ≤ s.cfg.portClearMaxSpin then
      (clearOwned i p s).port p = { s.port p with owner := none, stage := [] } ∧
      ((clearOwned i p s).pipe i).wedged = (s.pipe i).wedged
     else (clearOwned i p s).port p = s.port p ∧ ((clearOwned i p s).pipe i).wedged = true) := by
  rw [clearOwned_eq, if_pos h]
  split <;> simp

/-! ### `quiesce` -/

@[simp] theorem quiesce_cfg : (quiesce i s).cfg = s.cfg := by
  simp [quiesce]

@[simp] theorem quiesce_link (k : PortId) : (quiesce i s).link k = s.link k := by
  simp [quiesce]

@[simp] theorem quiesce_ctrl : (quiesce i s).ctrl = s.ctrl := by
  simp [quiesce]

@[simp] theorem quiesce_mem : (quiesce i s).mem = s.mem := by
  simp [quiesce]

@[simp] theorem quiesce_txLog : (quiesce i s).txLog = s.txLog := by
  simp [quiesce]

@[simp] theorem quiesce_fifoLog : (quiesce i s).fifoLog = s.fifoLog := by
  simp [quiesce]

@[simp] theorem quiesce_evLog : (quiesce i s).evLog = s.evLog := by
  simp [quiesce]

@[simp] theorem quiesce_timeLog : (quiesce i s).timeLog = s.timeLog := by
  simp [quiesce]

@[simp] theorem quiesce_cbLog : (quiesce i s).cbLog = s.cbLog := by
  simp [quiesce]

@[simp] theorem quiesce_setupLog : (quiesce i s).setupLog = s.setupLog := by
  simp [quiesce]

@[simp] theorem quiesce_ret : (quiesce i s).ret = s.ret := by
  simp [quiesce]

@[simp] theorem quiesce_inbox : (quiesce i s).inbox = s.inbox := by
  simp [quiesce]


theorem quiesce_sts (x : Source) : (quiesce i s).sts x = (s.sts x && decide (x.pipe? ≠ some i)) := by
  simp [quiesce, clearStatus_sts]

theorem quiesce_enb (x : Source) : (quiesce i s).enb x = (s.enb x && decide (x.pipe? ≠ some i)) := by
  simp [quiesce, disableSources_enb]

/-! ### `TerminateAll` -/

@[simp] theorem finishIfBusy_cfg (d : Dir) (r : Result) : (finishIfBusy i d r s).cfg = s.cfg := by
  unfold finishIfBusy; split <;> simp

@[simp] theorem finishIfBusy_port (d : Dir) (r : Result) (q : FPort) : (finishIfBusy i d r s).port q = s.port q := by
  unfold finishIfBusy; split <;> simp

@[simp] theorem finishIfBusy_chan (d : Dir) (r : Result) (q : DPort) : (finishIfBusy i d r s).chan q = s.chan q := by
  unfold finishIfBusy; split <;> simp

@[simp] theorem finishIfBusy_link (d : Dir) (r : Result) (k : PortId) : (finishIfBusy i d r s).link k = s.link k := by
  unfold finishIfBusy; split <;> simp

@[simp] theorem finishIfBusy_sts (d : Dir) (r : Result) (y : Source) : (finishIfBusy i d r s).sts y = s.sts y := by
  unfold finishIfBusy; split <;> simp

@[simp] theorem finishIfBusy_enb (d : Dir) (r : Result) (y : Source) : (finishIfBusy i d r s).enb y = s.enb y := by
  unfold finishIfBusy; split <;> simp

@[simp] theorem finishIfBusy_mem (d : Dir) (r : Result) : (finishIfBusy i d r s).mem = s.mem := by
  unfold finishIfBusy; split <;> simp

@[simp] theorem finishIfBusy_txLog (d : Dir) (r : Result) : (finishIfBusy i d r s).txLog = s.txLog := by
  unfold finishIfBusy; split <;> simp

@[simp] theorem finishIfBusy_fifoLog (d : Dir) (r : Result) : (finishIfBusy i d r s).fifoLog = s.fifoLog := by
  unfold finishIfBusy; split <;> simp

@[simp] theorem finishIfBusy_evLog (d : Dir) (r : Result) : (finishIfBusy i d r s).evLog = s.evLog := by
  unfold finishIfBusy; split <;> simp

@[simp] theorem finishIfBusy_timeLog (d : Dir) (r : Result) : (finishIfBusy i d r s).timeLog = s.timeLog := by
  unfold finishIfBusy; split <;> simp

@[simp] theorem finishIfBusy_setupLog (d : Dir) (r : Result) : (finishIfBusy i d r s).setupLog = s.setupLog := by
  unfold finishIfBusy; split <;> simp

@[simp] theorem finishIfBusy_ret (d : Dir) (r : Result) : (finishIfBusy i d r s).ret = s.ret := by
  unfold finishIfBusy; split <;> simp

@[simp] theorem finishIfBusy_draws (d : Dir) (r : Result) : (finishIfBusy i d r s).draws = s.draws := by
  unfold finishIfBusy; split <;> simp

@[simp] theorem finishIfBusy_inbox (d : Dir) (r : Result) : (finishIfBusy i d r s).inbox = s.inbox := by
  unfold finishIfBusy; split <;> simp

theorem quiesce_pipe (j : PipeId) : (quiesce i s).pipe j =
    if j = i then
      { s.pipe i with
        trncnt := 0, ignoreCnt := 0, rxFifo := none, pid := .nak, wedged := ((quiesce i s).pipe i).wedged }
    else s.pipe j := by
  by_cases h : j = i
  · subst h
    have hw : ∀ (p : FPort) (u : State), ∃ w, (clearOwned j p u).pipe j = { u.pipe j with wedged := w } := fun p u =>
      ⟨_, (clearOwned_pipe p j).trans (if_pos rfl)⟩
    rw [if_pos rfl]
    simp only [quiesce, modPipe_pipe, if_true]
    obtain ⟨w1, h1⟩ := hw .d1 (clearOwned j .d0 (clearOwned j .c (dropChan j .d1 (dropChan j .d0
      ((clearStatus j (disableSources j s)).modPipe j fun q => { q with trncnt := 0, ignoreCnt := 0 })))))
    obtain ⟨w2, h2⟩ := hw .d0 (clearOwned j .c (dropChan j .d1 (dropChan j .d0
      ((clearStatus j (disableSources j s)).modPipe j fun q => { q with trncnt := 0, ignoreCnt := 0 }))))
    obtain ⟨w3, h3⟩ := hw .c (dropChan j .d1 (dropChan j .d0
      ((clearStatus j (disableSources j s)).modPipe j fun q => { q with trncnt := 0, ignoreCnt := 0 })))
    rw [h1, h2, h3]
    simp
  · simp [quiesce, clearOwned_pipe _ j, h, Ne.symm h]

theorem quiesce_wedged (h : (s.pipe i).wedged = true) : ((quiesce i s).pipe i).wedged = true := by
  simp only [quiesce, modPipe_pipe, if_true]
  exact clearOwned_wedged _ (clearOwned_wedged _ (clearOwned_wedged _ (by simpa using h)))

@[simp] theorem inDataStage_quiesce (k : PipeId) : (quiesce i s).inDataStage k = s.inDataStage k :=
  inDataStage_congr (by simp) (by simp)

theorem finishIfBusy_cbLog (d : Dir) (r : Result) : (finishIfBusy i d r s).cbLog = s.cbLog ++ endingOf i d r s := by
  unfold finishIfBusy endingOf
  by_cases h : ((s.pipe i).slot d).state = .idle
  · simp [h]
  · simp [h, finish_cbLog]

theorem finishIfBusy_pipe (d : Dir) (r : Result) (j : PipeId) (hr : r ≠ .exact ∧ r ≠ .shortPacket) :
    (finishIfBusy i d r s).pipe j =
      if j = i ∧ ((s.pipe i).slot d).state ≠ .idle then
        { (s.pipe i).setSlot d Slot.empty with pid := if s.inDataStage i then .stall else (s.pipe i).pid }
      else s.pipe j := by
  unfold finishIfBusy
  by_cases h : ((s.pipe i).slot d).state = .idle
  · simp [h]
  · simp [h, finish_pipe, hr.1, hr.2]

theorem finishIfBusy_ctrl (d : Dir) (r : Result) (hr : r ≠ .exact ∧ r ≠ .shortPacket) :
    (finishIfBusy i d r s).ctrl =
      if s.inDataStage i = true ∧ ((s.pipe i).slot d).state ≠ .idle then
        { s.ctrl with statusEn := false, state := .cStalled }
      else s.ctrl := by
  unfold finishIfBusy
  by_cases h : ((s.pipe i).slot d).state = .idle
  · simp [h]
  · simp [h, finish_ctrl, hr.1, hr.2]

/-- The data stage ends with the first callback of pipe 0 (R198). -/
theorem inDataStage_finishIfBusy (d : Dir) (r : Result) (hr : r ≠ .exact ∧ r ≠ .shortPacket) :
    (finishIfBusy i d r s).inDataStage i = (s.inDataStage i && decide (((s.pipe i).slot d).state = .idle)) := by
  by_cases h : ((s.pipe i).slot d).state = .idle
  · simp [finishIfBusy, h]
  · have hc := finishIfBusy_ctrl (i := i) (s := s) d r hr
    by_cases hd : s.inDataStage i = true
    · rw [if_pos ⟨hd, h⟩] at hc
      simp [State.inDataStage, hc, h]
    · rw [if_neg (fun x => hd x.1)] at hc
      rw [inDataStage_congr (by simp) hc]
      simpa [h] using hd

theorem quiesce_chan (p : DPort) : (quiesce i s).chan p =
    if (s.chan p).bound = true ∧ (s.chan p).pipe = i then
      { s.chan p with armed := false, bound := false, done := false }
    else s.chan p := by
  cases p <;> simp [quiesce, dropChan_chan]

theorem quiesce_dreq (p : DPort) : ((quiesce i s).port p.fport).dreq =
    ((s.port p.fport).dreq && !(decide ((s.chan p).bound = true ∧ (s.chan p).pipe = i))) := by
  cases p <;> simp [quiesce, dropChan_port, clearOwned_dreq, dropChan_chan, DPort.fport] <;> split <;> simp_all <;>
    (intro _; rename_i h _; exact (Bool.eq_false_or_eq_true _).elim (fun e => Or.inr (h e)) Or.inl)

theorem quiesce_dreqC : ((quiesce i s).port .c).dreq = (s.port .c).dreq := by
  simp [quiesce, dropChan_port, clearOwned_dreq, DPort.fport]


/-- `TerminateAll` (R130) before it clears ports. -/
def beforeClear (i : PipeId) (s : State) : State :=
  dropChan i .d1 (dropChan i .d0
    ((clearStatus i (disableSources i s)).modPipe i fun q => { q with trncnt := 0, ignoreCnt := 0 }))

/-- `TerminateAll` (R130) after it cleared ports. -/
def afterClear (i : PipeId) (s : State) : State := clearOwned i .d1 (clearOwned i .d0 (clearOwned i .c (beforeClear i s)))

theorem quiesce_eq : quiesce i s = (afterClear i s).modPipe i fun q => { q with rxFifo := none, pid := .nak } := rfl

theorem beforeClear_owner (f : FPort) : ((beforeClear i s).port f).owner = (s.port f).owner := by
  cases f <;> simp [beforeClear, dropChan_port, DPort.fport] <;> split <;> simp

theorem beforeClear_stage (f : FPort) : ((beforeClear i s).port f).stage = (s.port f).stage := by
  cases f <;> simp [beforeClear, dropChan_port, DPort.fport] <;> split <;> simp

@[simp] theorem beforeClear_draws : (beforeClear i s).draws = s.draws := by simp [beforeClear]

@[simp] theorem beforeClear_cfg : (beforeClear i s).cfg = s.cfg := by simp [beforeClear]

theorem beforeClear_wedged : ((beforeClear i s).pipe i).wedged = (s.pipe i).wedged := by simp [beforeClear]

theorem afterClear_port (f : FPort) : ∃ t, (afterClear i s).port f = (clearOwned i f t).port f ∧
    t.port f = (beforeClear i s).port f ∧
    (((clearOwned i f t).pipe i).wedged = true → ((afterClear i s).pipe i).wedged = true) := by
  cases f
  · refine ⟨beforeClear i s, ?_, rfl, ?_⟩
    · simp [afterClear, clearOwned_port_ne]
    · exact fun h => clearOwned_wedged _ (clearOwned_wedged _ h)
  · refine ⟨clearOwned i .c (beforeClear i s), ?_, ?_, ?_⟩
    · simp [afterClear, clearOwned_port_ne]
    · simp [clearOwned_port_ne]
    · exact fun h => clearOwned_wedged _ h
  · refine ⟨clearOwned i .d0 (clearOwned i .c (beforeClear i s)), rfl, ?_, fun h => h⟩
    simp [clearOwned_port_ne]

theorem quiesce_unowned (f : FPort) (h : (s.port f).owner ≠ some i) :
    ((quiesce i s).port f).owner = (s.port f).owner ∧ ((quiesce i s).port f).stage = (s.port f).stage := by
  obtain ⟨t, h1, h2, -⟩ := afterClear_port (i := i) (s := s) f
  rw [← beforeClear_owner (i := i)] at h
  rw [quiesce_eq]
  simp only [modPipe_port, h1]
  rw [clearOwned_unowned f (by rw [h2]; exact h), h2]
  exact ⟨beforeClear_owner f, beforeClear_stage f⟩

theorem quiesce_owned (f : FPort) (h : (s.port f).owner = some i) :
    (((quiesce i s).port f).owner = none ∧ ((quiesce i s).port f).stage = []) ∨
    (((quiesce i s).port f).owner = some i ∧ ((quiesce i s).port f).stage = (s.port f).stage ∧
      ((quiesce i s).pipe i).wedged = true) := by
  obtain ⟨t, h1, h2, h3⟩ := afterClear_port (i := i) (s := s) f
  have ht : (t.port f).owner = some i := by rw [h2, beforeClear_owner, h]
  obtain ⟨-, hc⟩ := clearOwned_owned f ht
  rw [quiesce_eq]
  simp only [modPipe_port, modPipe_pipe, if_true, h1]
  split at hc
  · left; rw [hc.1]; exact ⟨rfl, rfl⟩
  · right; rw [hc.1]
    exact ⟨ht, by rw [h2, beforeClear_stage], h3 hc.2⟩

theorem clearOwned_newlyWedged (p : FPort) :
    ((clearOwned i p s).pipe i).wedged = (s.pipe i).wedged ∨ ((clearOwned i p s).port p).owner = some i := by
  by_cases h : (s.port p).owner = some i
  · obtain ⟨-, hc⟩ := clearOwned_owned p h
    split at hc
    · exact .inl hc.2
    · right; rw [hc.1]; exact h
  · exact .inl (by rw [clearOwned_unowned p h])

/-- A pipe that `TerminateAll` wedges keeps the port whose clear failed (R106, R130). -/
theorem quiesce_newlyWedged : ((quiesce i s).pipe i).wedged = (s.pipe i).wedged ∨
    ∃ f, (s.port f).owner = some i ∧ ((quiesce i s).port f).owner = some i := by
  have key : ((afterClear i s).pipe i).wedged = (s.pipe i).wedged ∨ ∃ f, ((afterClear i s).port f).owner = some i := by
    unfold afterClear
    rcases clearOwned_newlyWedged (i := i) (s := clearOwned i .d0 (clearOwned i .c (beforeClear i s))) .d1 with h1 | h1
    · rcases clearOwned_newlyWedged (i := i) (s := clearOwned i .c (beforeClear i s)) .d0 with h2 | h2
      · rcases clearOwned_newlyWedged (i := i) (s := beforeClear i s) .c with h3 | h3
        · exact .inl (h1.trans (h2.trans (h3.trans beforeClear_wedged)))
        · exact .inr ⟨.c, by rwa [clearOwned_port_ne _ _ (by decide), clearOwned_port_ne _ _ (by decide)]⟩
      · exact .inr ⟨.d0, by rwa [clearOwned_port_ne _ _ (by decide)]⟩
    · exact .inr ⟨.d1, h1⟩
  rw [quiesce_eq]
  simp only [modPipe_pipe, if_true, modPipe_port]
  rcases key with h | ⟨f, h⟩
  · exact .inl h
  · refine .inr ⟨f, Classical.byContradiction fun hn => hn ?_, h⟩
    have := (quiesce_unowned f hn).1
    rw [quiesce_eq, modPipe_port, h] at this
    exact this.symm

theorem quiesce_noPort (h : ∀ f, (s.port f).owner ≠ some i) :
    ((quiesce i s).pipe i).wedged = (s.pipe i).wedged ∧ (quiesce i s).draws = s.draws := by
  have hb : ∀ f, ((beforeClear i s).port f).owner ≠ some i := fun f => by rw [beforeClear_owner]; exact h f
  have ha : afterClear i s = beforeClear i s := by
    unfold afterClear
    rw [clearOwned_unowned .c (hb .c), clearOwned_unowned .d0 (hb .d0), clearOwned_unowned .d1 (hb .d1)]
  rw [quiesce_eq, ha]
  simp [beforeClear_wedged]

theorem quiesce_onePort (f : FPort) (h : (s.port f).owner = some i) (ho : ∀ g, (s.port g).owner = some i → g = f) :
    (quiesce i s).draws = (drawClearPolls s).2.draws ∧
    (if (drawClearPolls s).1 ≤ s.cfg.portClearMaxSpin then
      ((quiesce i s).port f).owner = none ∧ ((quiesce i s).port f).stage = [] ∧
      ((quiesce i s).pipe i).wedged = (s.pipe i).wedged
     else ((quiesce i s).port f).owner = some i ∧ ((quiesce i s).port f).stage = (s.port f).stage ∧
      ((quiesce i s).pipe i).wedged = true) := by
  have hb : ((beforeClear i s).port f).owner = some i := by rw [beforeClear_owner]; exact h
  have hn : ∀ g, f ≠ g → ((beforeClear i s).port g).owner ≠ some i := fun g hg he =>
    hg (ho g (by rw [← beforeClear_owner (i := i)]; exact he)).symm
  have ha : afterClear i s = clearOwned i f (beforeClear i s) := by
    unfold afterClear
    cases f
    · rw [clearOwned_unowned .d0 (by rw [clearOwned_port_ne _ _ (by decide)]; exact hn _ (by decide)),
        clearOwned_unowned .d1 (by rw [clearOwned_port_ne _ _ (by decide)]; exact hn _ (by decide))]
    · rw [clearOwned_unowned .c (hn _ (by decide)),
        clearOwned_unowned .d1 (by rw [clearOwned_port_ne _ _ (by decide)]; exact hn _ (by decide))]
    · rw [clearOwned_unowned .c (hn _ (by decide)), clearOwned_unowned .d0 (hn _ (by decide))]
  obtain ⟨h1, h2⟩ := clearOwned_owned f hb
  rw [drawClearPolls_congr (s := s) (by simp)] at h2
  rw [drawClearPolls_draws_congr (s := s) (by simp)] at h1
  rw [quiesce_eq, ha]
  simp only [modPipe_port, modPipe_pipe, if_true, modPipe_draws, beforeClear_cfg] at h1 h2 ⊢
  refine ⟨h1, ?_⟩
  split at h2
  · rename_i hc
    rw [if_pos hc, h2.1]
    exact ⟨rfl, rfl, h2.2.trans beforeClear_wedged⟩
  · rename_i hc
    rw [if_neg hc, h2.1]
    exact ⟨hb, beforeClear_stage f, h2.2⟩

theorem route_quiesce : (quiesce i s).route i = s.route i := by
  unfold State.route State.xdir
  by_cases h : i = 0
  · subst h; simp only [if_true]; rw [quiesce_pipe, if_pos rfl]
  · rw [if_neg h, if_neg h, quiesce_pipe, if_pos rfl]; simp

/-- `TerminateAll` (R130) does what `Terminated` says. -/
theorem terminateAll_terminated (r : Result) (hr : r ≠ .exact ∧ r ≠ .shortPacket) :
    Terminated i r s (terminateAll i r s) := by
  have hq : ∀ d, ((quiesce i s).pipe i).slot d = (s.pipe i).slot d := by
    intro d; rw [quiesce_pipe, if_pos rfl]; cases d <;> rfl
  have he : ∀ d, endingOf i d r (quiesce i s) = endingOf i d r s := by
    intro d; simp only [endingOf, hq]
  unfold terminateAll
  dsimp only
  rw [route_quiesce]
  generalize hd : s.route i = d
  have hne : d ≠ d.other := by cases d <;> decide
  have hs : ((finishIfBusy i d r (quiesce i s)).pipe i).slot d.other = (s.pipe i).slot d.other := by
    rw [finishIfBusy_pipe _ _ _ hr]
    split
    · rw [show ∀ (a : Pipe) (x : Pid), Pipe.slot { a with pid := x } d.other = a.slot d.other by
        intro a x; cases d <;> rfl]
      rw [slot_setSlot, if_neg hne, hq]
    · exact hq _
  have hw : ((finishIfBusy i d.other r (finishIfBusy i d r (quiesce i s))).pipe i).wedged =
      ((quiesce i s).pipe i).wedged := by
    rw [finishIfBusy_pipe _ _ _ hr, finishIfBusy_pipe _ _ _ hr]
    (repeat' split) <;> cases d <;> simp [Pipe.setSlot, Dir.other]
  constructor
  case frame => simp [OnlyPipe.refl]
  case callbacks =>
    rw [finishIfBusy_cbLog, finishIfBusy_cbLog, he, quiesce_cbLog, endings, hd, List.append_assoc]
    congr 2
    simp only [endingOf, hs]
  case idle =>
    intro _
    rw [finishIfBusy_pipe _ _ _ hr, finishIfBusy_pipe _ _ _ hr, quiesce_pipe]
    cases d <;> simp only [Pipe.slot, Dir.other, Pipe.setSlot] at * <;> (repeat' split) <;> simp_all [Slot.empty]
  case emptied =>
    intro e
    rw [finishIfBusy_pipe _ _ _ hr, finishIfBusy_pipe _ _ _ hr, quiesce_pipe]
    cases d <;> cases e <;> simp only [Pipe.slot, Dir.other, Pipe.setSlot] at * <;> (repeat' split) <;> simp_all
  case record =>
    rw [hw]
    rw [finishIfBusy_pipe _ _ _ hr, inDataStage_finishIfBusy _ _ hr, finishIfBusy_pipe _ _ _ hr, quiesce_pipe]
    simp only [inDataStage_quiesce, State.busy]
    cases s.inDataStage i <;> by_cases h1 : (s.pipe i).slotRx.state = .idle <;>
      by_cases h2 : (s.pipe i).slotTx.state = .idle <;> cases d <;>
      simp [Pipe.slot, Dir.other, Pipe.setSlot, h1, h2]
  case ctrl =>
    rw [finishIfBusy_ctrl _ _ hr, inDataStage_finishIfBusy _ _ hr, finishIfBusy_ctrl _ _ hr, hs, hq]
    simp only [inDataStage_quiesce, State.busy, quiesce_ctrl]
    cases s.inDataStage i <;> by_cases h1 : (s.pipe i).slotRx.state = .idle <;>
      by_cases h2 : (s.pipe i).slotTx.state = .idle <;> cases d <;>
      simp [Pipe.slot, Dir.other, h1, h2]
  case enb => intro x hx; simp [quiesce_enb, hx]
  case sts => intro x hx; simp [quiesce_sts, hx]
  case wedged => intro h; rw [hw]; exact quiesce_wedged h
  case disarmed => intro p hb hp; simp [quiesce_chan, quiesce_dreq, hb, hp]
  case chans => intro p h; simp [quiesce_chan, quiesce_dreq, h]
  case dreqC => simp [quiesce_dreqC]
  case unowned => intro f h; simpa using quiesce_unowned f h
  case owned => intro f h; rw [hw]; simpa using quiesce_owned f h
  case newlyWedged => rw [hw]; simpa using quiesce_newlyWedged (i := i) (s := s)
  case noPort => intro h; rw [hw]; simpa using quiesce_noPort h
  case onePort => intro f h ho; rw [hw]; simpa using quiesce_onePort f h ho
  case mem => simp
  case logs => simp
  case ret => simp
end Sys2Proof.Machine
end

