-- ==== Sys2Proof/Laws/Transfer.lean ====
section
/-! SUPPORT. One lemma per transfer operation that says all it does: a chunk written, a packet read, a request accepted on
either path, the accounting of a DMA-complete interrupt, the one-shot remainder. Callers cite these and unfold nothing. -/

namespace Sys2Proof.Machine

variable {i : PipeId} {s v : State}

/-! ### Pipe numbers and the sources of a pipe -/

theorem pipeOf?_none {n : Nat} (h : s.cfg.numPipes ≤ n) : s.pipeOf? n = none := by
  simp only [State.pipeOf?]
  split
  · rw [if_neg (by omega)]
  · rfl

theorem pipeOf?_some {n : Nat} (h : s.pipeOf? n = some i) : i.val = n ∧ n < s.cfg.numPipes := by
  simp only [State.pipeOf?] at h
  split at h
  · split at h
    · cases h; exact ⟨rfl, ‹_›⟩
    · cases h
  · cases h

theorem pipeOf?_congr {t : State} (h : t.cfg = s.cfg) (n : Nat) : t.pipeOf? n = s.pipeOf? n := by
  simp [State.pipeOf?, h]

theorem forall_source_of_pipe {P : Source → Prop} :
    (∀ x : Source, x.pipe? = some i → P x) ↔ P (.brdy i) ∧ P (.nrdy i) ∧ P (.bemp i) := by
  constructor
  · intro h; exact ⟨h _ rfl, h _ rfl, h _ rfl⟩
  · rintro ⟨a, b, c⟩ x hx
    cases x <;> simp [Source.pipe?] at hx <;> subst hx <;> assumption

/-! ### A forced termination of a pipe that may be idle -/

theorem terminateIfBusy_ended (r : Result) (hr : r ≠ .exact ∧ r ≠ .shortPacket) :
    Ended i r s (terminateIfBusy i r s) := by
  unfold Ended terminateIfBusy
  split
  · exact terminateAll_terminated r hr
  · rfl

/-- What `ReleasePipe(i)` (R108) does to the state `v` in which nothing of pipe `i` is outstanding any more: the port
ownership and `wedged` stay as they are. -/
structure Released (i : PipeId) (v u : State) : Prop where
  frame : OnlyPipe i v u
  record : u.pipe i =
    { v.pipe i with
      trncnt := 0
      ignoreCnt := 0
      pid := .nak
      toggle := false
      rxFifo := none
      configured := if i = 0 then (v.pipe i).configured else false
      devaddr := if i = 0 then (v.pipe i).devaddr else none }
  enb : ∀ x : Source, x.pipe? = some i → u.enb x = false
  sts : ∀ x : Source, x.pipe? = some i → u.sts x = false
  data : SameData v u
  ret : u.ret = v.ret

/-- `ReleasePipe` (R108) is the end of what is outstanding, then what `Released` says. -/
theorem releasePipe_released : Released i (terminateIfBusy i .stopped s) (releasePipe i s) where
  frame := by simp [releasePipe, OnlyPipe.refl]
  record := by simp [releasePipe, Pipe.release]
  enb := by rw [forall_source_of_pipe]; simp [releasePipe, disableSources, clearStatus]
  sts := by rw [forall_source_of_pipe]; simp [releasePipe, disableSources, clearStatus]
  data := by constructor <;> simp [releasePipe]
  ret := by simp [releasePipe]

/-! ### What the port procedure leaves alone -/

theorem canAcquire_congr {t : State} {f : FPort} (hc : t.cfg = s.cfg) (hp : (t.port f).owner = (s.port f).owner)
    (hd : t.draws = s.draws) : t.CanAcquire i f ↔ s.CanAcquire i f := by
  simp only [State.CanAcquire, hc, hp, drawClearPolls_congr hd]

section PortTaken

variable {f : FPort}

theorem PortTaken.cfg (h : PortTaken i f s v) : v.cfg = s.cfg := congrArg (·.cfg) h.rest
theorem PortTaken.pipe (h : PortTaken i f s v) (j : PipeId) : v.pipe j = s.pipe j := congrArg (·.pipe j) h.rest
theorem PortTaken.chan (h : PortTaken i f s v) (p : DPort) : v.chan p = s.chan p := congrArg (·.chan p) h.rest
theorem PortTaken.link (h : PortTaken i f s v) (k : PortId) : v.link k = s.link k := congrArg (·.link k) h.rest
theorem PortTaken.ctrl (h : PortTaken i f s v) : v.ctrl = s.ctrl := congrArg (·.ctrl) h.rest
theorem PortTaken.sts (h : PortTaken i f s v) (x : Source) : v.sts x = s.sts x := congrArg (·.sts x) h.rest
theorem PortTaken.enb (h : PortTaken i f s v) (x : Source) : v.enb x = s.enb x := congrArg (·.enb x) h.rest
theorem PortTaken.mem (h : PortTaken i f s v) : v.mem = s.mem := congrArg (·.mem) h.rest
theorem PortTaken.txLog (h : PortTaken i f s v) : v.txLog = s.txLog := congrArg (·.txLog) h.rest
theorem PortTaken.fifoLog (h : PortTaken i f s v) : v.fifoLog = s.fifoLog := congrArg (·.fifoLog) h.rest
theorem PortTaken.evLog (h : PortTaken i f s v) : v.evLog = s.evLog := congrArg (·.evLog) h.rest
theorem PortTaken.timeLog (h : PortTaken i f s v) : v.timeLog = s.timeLog := congrArg (·.timeLog) h.rest
theorem PortTaken.cbLog (h : PortTaken i f s v) : v.cbLog = s.cbLog := congrArg (·.cbLog) h.rest
theorem PortTaken.setupLog (h : PortTaken i f s v) : v.setupLog = s.setupLog := congrArg (·.setupLog) h.rest
theorem PortTaken.ret (h : PortTaken i f s v) : v.ret = s.ret := congrArg (·.ret) h.rest
theorem PortTaken.inbox (h : PortTaken i f s v) : v.inbox = s.inbox := congrArg (·.inbox) h.rest

end PortTaken

theorem Acquired.pipe {f : FPort} (h : Acquired i f s v) (j : PipeId) : v.pipe j = s.pipe j := by
  unfold Acquired at h
  split at h
  · rw [h]
  · exact h.pipe j

theorem Acquired.owner {f : FPort} (h : Acquired i f s v) : (v.port f).owner = some i := by
  unfold Acquired at h
  split at h
  · rw [h]; assumption
  · rw [h.port]

theorem Acquired.stage {f : FPort} (h : Acquired i f s v) (hs : (s.port f).stage = []) : (v.port f).stage = [] := by
  unfold Acquired at h
  split at h
  · rw [h, hs]
  · rw [h.port]

/-! ### One packet -/

/-- What leaves the port when a chunk of `n` bytes of the write of pipe `i` is staged. -/
def chunkStaged (i : PipeId) (n : Nat) (v : State) : State :=
  advanceSlot i .tx n (fifoWrite .c (memRead v.mem (v.pipe i).slotTx.buf n) v)

theorem portC_stage_nil (h : (v.port .c).stage = []) :
    ({ owner := v.portC.owner, dreq := v.portC.dreq, stage := [] } : Port) = v.portC := by
  have h' : v.portC.stage = [] := h
  rw [← h']

theorem writeOwned_chunk (hs : (v.port .c).stage = []) : ChunkWritten i v (writeOwned i v) := by
  simp only [ChunkWritten]
  have hc : ∀ t : State, t.port .c = t.portC := fun _ => rfl
  have hp := portC_stage_nil hs
  have hs' : v.portC.stage = [] := hs
  generalize hn : min (v.pipe i).slotTx.remaining.toNat (v.pipe i).mps = n
  have hw : ∀ b, (commit .c i b (chunkStaged i n v)).fifoLog = v.fifoLog ++
      fifoSplit .c .w (wordBytesOf v.cfg.wordBytes) v.cfg.fifoEndian (memRead v.mem (v.pipe i).slotTx.buf n) := by
    intro b; simp [commit, chunkStaged, advanceSlot, fifoWrite, logFifo]
  by_cases h : n < (v.pipe i).slotTx.remaining.toNat
  · refine ⟨commit .c i false (chunkStaged i n v), ?_, hw _, ?_, ?_, ?_, ?_⟩
    · simp [commit, chunkStaged, advanceSlot, fifoWrite, logFifo, h, hs]
    · simp [commit, chunkStaged, advanceSlot, fifoWrite, logFifo, Slot.advance, Pipe.slot, Pipe.setSlot]
    · intro j hj; simp [commit, chunkStaged, advanceSlot, fifoWrite, logFifo, Ne.symm hj]
    · simp [commit, chunkStaged, advanceSlot, fifoWrite, logFifo, State.modPipe, State.modPort, State.addTx, State.addFifo,
        hc, hp]
    · rw [if_pos h]
      simp only [writeOwned, hn, chunkStaged, if_pos (show 0 < (v.pipe i).slotTx.remaining.toNat - n by omega)]
  · by_cases e : n = (v.pipe i).mps
    · refine ⟨commit .c i true (commit .c i false (chunkStaged i n v)), ?_, ?_, ?_, ?_, ?_, ?_⟩
      · rw [if_neg h, if_pos e]
        simp [commit, chunkStaged, advanceSlot, fifoWrite, logFifo, hs]
      · rw [← hw false]; simp [commit]
      · simp [commit, chunkStaged, advanceSlot, fifoWrite, logFifo, Slot.advance, Pipe.slot, Pipe.setSlot]
      · intro j hj; simp [commit, chunkStaged, advanceSlot, fifoWrite, logFifo, Ne.symm hj]
      · simp [commit, chunkStaged, advanceSlot, fifoWrite, logFifo, State.modPipe, State.modPort, State.addTx,
          State.addFifo, hc, hp]
      · rw [if_neg h]
        simp only [writeOwned, hn, chunkStaged, if_neg (show ¬ 0 < (v.pipe i).slotTx.remaining.toNat - n by omega), if_pos e]
        exact complete_completed _ _
    · refine ⟨commit .c i true (chunkStaged i n v), ?_, hw _, ?_, ?_, ?_, ?_⟩
      · rw [if_neg h, if_neg e]
        simp [commit, chunkStaged, advanceSlot, fifoWrite, logFifo, hs]
      · simp [commit, chunkStaged, advanceSlot, fifoWrite, logFifo, Slot.advance, Pipe.slot, Pipe.setSlot]
      · intro j hj; simp [commit, chunkStaged, advanceSlot, fifoWrite, logFifo, Ne.symm hj]
      · simp [commit, chunkStaged, advanceSlot, fifoWrite, logFifo, State.modPipe, State.modPort, State.addTx,
          State.addFifo, hc, hp]
      · rw [if_neg h]
        simp only [writeOwned, hn, chunkStaged, if_neg (show ¬ 0 < (v.pipe i).slotTx.remaining.toNat - n by omega), if_neg e]
        exact complete_completed _ _

theorem readOwned_read (pkt : List Byte) (hs : (v.pipe i).rxFifo = some pkt) :
    PacketRead i pkt v (readOwned i pkt v) := by
  simp only [PacketRead]
  generalize hx : (v.pipe i).slotRx = x
  generalize hn : min x.remaining.toNat pkt.length = n
  have hlt := x.remaining.isLt
  refine ⟨advanceSlot i .rx n ((fifoRead .c i n v).2.setMem (memWrite (fifoRead .c i n v).2.mem x.buf (fifoRead .c i n v).1)),
    ?_, ?_, ?_, ?_, ?_, ?_, ?_⟩
  · simp [advanceSlot, fifoRead, logFifo, hs]
  · simp [advanceSlot, fifoRead, logFifo, Slot.advance, Pipe.slot, Pipe.setSlot, hx]
  · intro j hj; simp [advanceSlot, fifoRead, logFifo, Ne.symm hj]
  · intro k h hk
    simp only [advanceSlot, modPipe_mem, setMem_mem, fifoRead, hs, logFifo]
    have := read_memWrite_inside v.mem x.buf (pkt.take n) k (by simp; omega) (by simp; omega)
    simp at this ⊢
    rw [this]
  · intro a ha
    simp only [advanceSlot, modPipe_mem, setMem_mem, fifoRead, hs, logFifo]
    apply read_memWrite_outside
    simp only [Option.getD_some, List.length_take]
    rw [show min n pkt.length = n by omega]; exact ha
  · simp [advanceSlot, fifoRead, logFifo, State.modPipe, State.setMem, State.addFifo]
  · simp only [readOwned, hx, hn]
    split
    · exact complete_completed _ _
    · by_cases e : x.remaining.toNat = n
      · rw [if_pos e, if_pos (show x.remaining.toNat - n = 0 by omega)]; exact complete_completed _ _
      · rw [if_neg e, if_neg (show ¬ x.remaining.toNat - n = 0 by omega)]; split
        · exact complete_completed _ _
        · rfl

/-! ### Submission -/

theorem armCpu_accepted (d : Dir) (b l c : Word) : Accepted i d b l c v (armCpu i d b l c v) := by
  constructor
  · simp only [armCpu, onlyPipe_setEnb_brdy, onlyPipe_setEnb_nrdy, onlyPipe_clearStatus, onlyPipe_modPipe]
    exact OnlyPipe.refl _ _
  · simp [armCpu, Pipe.arm, cpuSlot, ceilDiv]
  · simp [armCpu]
  · rw [forall_source_of_pipe]; simp [armCpu, clearStatus]
  · constructor <;> simp [armCpu]

theorem foldl_max_le {l : List Nat} {a b : Nat} (ha : a ≤ b) (h : ∀ x ∈ l, x ≤ b) : l.foldl max a ≤ b := by
  induction l generalizing a with
  | nil => exact ha
  | cons y l ih =>
    exact ih (Nat.max_le.2 ⟨ha, h y (by simp)⟩) fun x hx => h x (by simp [hx])

theorem le_foldl_max {l : List Nat} {a : Nat} : a ≤ l.foldl max a ∧ ∀ x ∈ l, x ≤ l.foldl max a := by
  induction l generalizing a with
  | nil => simp
  | cons y l ih =>
    refine ⟨(Nat.le_max_left _ _).trans ih.1, fun x hx => ?_⟩
    rcases List.mem_cons.1 hx with rfl | hx
    · exact (Nat.le_max_right _ _).trans ih.1
    · exact ih.2 x hx

theorem foldl_max_mem {l : List Nat} {a : Nat} : l.foldl max a = a ∨ l.foldl max a ∈ l := by
  induction l generalizing a with
  | nil => simp
  | cons y l ih =>
    simp only [List.foldl_cons, List.mem_cons]
    rcases ih (a := max a y) with h | h
    · rcases Nat.le_total a y with g | g
      · right; left; rw [h, Nat.max_eq_right g]
      · left; rw [h, Nat.max_eq_left g]
    · right; right; exact h

/-- The element width (R153): one of the supported widths, it divides the transfer size, and none that does is wider. -/
theorem elementWidth_widest {ws : List Nat} {n : Nat} (h : 1 ∈ ws) :
    elementWidth ws n ∈ ws ∧ n % elementWidth ws n = 0 ∧ ∀ x ∈ ws, x ≠ 0 → n % x = 0 → x ≤ elementWidth ws n := by
  refine ⟨?_, ?_, ?_⟩
  · rcases foldl_max_mem (l := ws.filter fun x => decide (x ≠ 0) && decide (n % x = 0)) (a := 1) with e | e
    · simp only [elementWidth, e, h]
    · exact (List.mem_filter.1 e).1
  · rcases foldl_max_mem (l := ws.filter fun x => decide (x ≠ 0) && decide (n % x = 0)) (a := 1) with e | e
    · simp only [elementWidth, e, Nat.mod_one]
    · have := (List.mem_filter.1 e).2
      simp only [Bool.and_eq_true, decide_eq_true_eq] at this
      exact this.2
  · intro x hx h0 hm
    exact le_foldl_max.2 x (List.mem_filter.2 ⟨hx, by simp [h0, hm]⟩)

theorem armDma_accepted (d : Dir) (b l c : Word) (p : DPort) (hw : v.cfg.wf = true) :
    DmaAccepted i d b l c p v (armDma i d b l c p v) := by
  have hws : 1 ∈ v.cfg.dmaWidths ∧ ∀ x ∈ v.cfg.dmaWidths, x ≠ 0 := by
    simp [Cfg.wf] at hw
    refine ⟨by tauto, fun x hx => ?_⟩
    have := hw.1.1.1.1.1.2.2 x hx
    omega
  have hb : ∀ t : State, t.cfg = v.cfg → t.blockSize p = v.blockSize p := by
    intro t h; simp [State.blockSize, h]
  constructor
  · simp only [armDma, onlyPipe_modPort, onlyPipe_setEnb_nrdy, onlyPipe_modChan, onlyPipe_clearStatus, onlyPipe_modPipe]
    exact OnlyPipe.refl _ _
  · simp [armDma, Pipe.armDma, dmaSlot, ceilDiv]
  · simp [armDma, dmaChan, hb]
  · have := elementWidth_widest (ws := v.cfg.dmaWidths) (n := l.toNat / v.blockSize p * v.blockSize p) hws.1
    have e : ((armDma i d b l c p v).chan p).width =
        elementWidth v.cfg.dmaWidths (l.toNat / v.blockSize p * v.blockSize p) := by
      simp [armDma, dmaChan, hb]
    rw [e]
    exact ⟨this.1, this.2.1, fun x hx => this.2.2 x hx (hws.2 x hx)⟩
  · intro q hq; simp [armDma, Ne.symm hq]
  · simp [armDma]
  · intro f hf; simp [armDma, Ne.symm hf]
  · simp [armDma]
  · rw [forall_source_of_pipe]; simp [armDma, clearStatus]
  all_goals simp [armDma]

/-! ### DMA complete -/

theorem oneShot_of_arm (d : Dir) : OneShot i d v ((v.modPipe i fun q =>
    q.setSlot d { q.slot d with state := .armed, path := .cpu, oneShot := true }).setEnb (.brdy i) true) := by
  constructor
  · simp only [onlyPipe_setEnb_brdy, onlyPipe_modPipe]; exact OnlyPipe.refl _ _
  · simp
  · simp
  · intro x; simp
  · constructor <;> simp
  · simp

theorem setSlot_setSlot (q : Pipe) (d : Dir) (x y : Slot) : (q.setSlot d x).setSlot d y = q.setSlot d y := by
  cases d <;> rfl

theorem dmaAccount_accounted (p : DPort) (t : State) (ht : t = s.modChan p fun x => { x with done := false }) :
    Accounted p s (dmaAccount p t) := by
  subst ht
  constructor
  · simp [dmaAccount, advanceSlot, Slot.advance, Chan.moved, Chan.bytesMoved]
  · simp [dmaAccount, advanceSlot, setSlot_setSlot]
  · intro j hj; simp [dmaAccount, advanceSlot, Ne.symm hj]
  · simp [dmaAccount, advanceSlot]
  · intro q hq; simp [dmaAccount, advanceSlot, Ne.symm hq]
  · simp [dmaAccount, advanceSlot]
  · intro f hf; simp [dmaAccount, advanceSlot, Ne.symm hf]
  · cases p <;> rfl

end Sys2Proof.Machine
end

