-- ==== Sys2Proof/Tests/Slice0.lean ====
section
/-! SUPPORT. Tests on fixed values. Expected results are those of the spec's rules and of 95_test_vectors.md, worked out by
hand; words are written out from the tables of R81 to R83. The theorems `witness_…` show for each statement that its
hypotheses can be met together. -/

namespace Sys2Proof.Tests

open Sys2Proof Sys2Proof.Machine

/-! ### Well-formedness: every check refuses an ill-formed term -/

theorem test_wf_configure_ok : (Instr.configurePipe 9 .bulk .out 1024 none).wellFormed Cfg.default = true ∧
    (Instr.configurePipe 0 .control .out 1 (some 0)).wellFormed Cfg.default = true := by decide

theorem test_wf_mps : (Instr.configurePipe 1 .bulk .out 0 none).wellFormed Cfg.default = false ∧
    (Instr.configurePipe 1 .bulk .out 1025 none).wellFormed Cfg.default = false := by decide

theorem test_wf_pipe_number :
    ([.configurePipe 10 .bulk .out 64 none, .releasePipe 10, .acquirePort 10 .c, .read 10 0 0 0, .write 10 0 0 0, .stop 255,
      .dmaStart 10 0 0 .d0 0, .hwRxPacket 10 [], .hwTxReady 16, .hwNotReady 10, .hwStall 10, .hwBufEmpty 10, .hBrdy 10,
      .hBemp 16, .hNrdy 31] : List Instr).all (fun i => i.wellFormed Cfg.default == false) = true := by decide

theorem test_wf_port_number :
    ([.linkAttachProcess 1, .linkBusReset 1, .linkSuspend 2, .linkResume 1, .linkSetAddress 1 5, .hwAttach 1, .hwDetach 1,
      .hwLinechg 255, .hAttach 1, .hDetach 2, .hLinechg 7] : List Instr).all
      (fun i => i.wellFormed Cfg.default == false) = true := by decide

theorem test_wf_setup_length : (Instr.hwSetup [1, 2, 3, 4, 5, 6, 7]).wellFormed Cfg.default = false ∧
    (Instr.hwSetup [1, 2, 3, 4, 5, 6, 7, 8]).wellFormed Cfg.default = true := by decide

theorem test_wf_dma_port : (Instr.dmaIrq .c).wellFormed Cfg.default = false ∧
    (Instr.dmaBlock .c).wellFormed Cfg.default = false := by decide

theorem test_wf_data_length : (Instr.hwRxPacket 1 (List.replicate (2 ^ 32) 0)).wellFormed Cfg.default = false := by
  simp only [Instr.wellFormed, List.length_replicate, Nat.lt_irrefl, decide_false, Bool.and_false]

/-! ### Decoding: words written out from R81 to R83 -/

/-- A record without data. -/
def rec (w0 w1 w2 w3 w4 : Word) : Input := .record ⟨w0, w1, w2, w3, w4, []⟩

/-- `w4`: `mps` 512 = 0x200, `devaddr` 5 = 5 shifted by 11 = 0x2800, `dav` = 0x40000; `ttype` 3 at 19:18 = 0xC0000, `dir` 1 =
0x100000. -/
theorem test_decode_manager :
    decode (rec 0x001C0201 0 0 0 0x00042A00) = .instr (.configurePipe 2 .isochronous .inn 512 (some 5)) ∧
    decode (rec 0x00080101 0 0 0 0x00000008) = .instr (.configurePipe 1 .interrupt .out 8 none) ∧
    decode (rec 0x00000302 0 0 0 0) = .instr (.releasePipe 3) ∧
    decode (rec 0x00020403 0 0 0 0) = .instr (.acquirePort 4 .d1) := by decide

theorem test_decode_transfer :
    decode (rec 0x00000210 0x2000 10 9 0) = .instr (.read 2 0x2000 10 9) ∧
    decode (rec 0x00000111 0x1000 0x82 7 0) = .instr (.write 1 0x1000 130 7) ∧
    decode (rec 0x00000512 0 0 0 0) = .instr (.stop 5) ∧
    decode (rec 0x00010113 0x1000 0x82 7 0) = .instr (.dmaStart 1 0x1000 130 .d0 7) := by decide

theorem test_decode_link :
    decode (rec 0x00000120 0 0 0 0) = .instr (.linkAttachProcess 1) ∧
    decode (rec 0x00000021 0 0 0 0) = .instr (.linkBusReset 0) ∧
    decode (rec 0x00000122 0 0 0 0) = .instr (.linkSuspend 1) ∧
    decode (rec 0x00000023 0 0 0 0) = .instr (.linkResume 0) ∧
    decode (rec 0x00000124 0 0 0 0x0003F800) = .instr (.linkSetAddress 1 127) := by decide

theorem test_decode_control :
    decode (rec 0x00000030 0 0 0 0) = .instr .ctrlAck ∧ decode (rec 0x00000031 0 0 0 0) = .instr .ctrlStall ∧
    decode (rec 0x00000032 0x1000 18 4 0) = .instr (.ctrlData 0x1000 18 4) := by decide

theorem test_decode_irq :
    decode (rec 0x00000040 0 0 0 0) = .instr .usbIrq ∧ decode (rec 0x00020041 0 0 0 0) = .instr (.dmaIrq .d1) ∧
    decode (rec 0x00000041 0 0 0 0) = .instr (.dmaIrq .c) := by decide

theorem test_decode_environment :
    decode (.record ⟨0x00000180, 0, 3, 0, 0, [1, 2, 3]⟩) = .instr (.hwRxPacket 1 [1, 2, 3]) ∧
    decode (rec 0x00000181 0 0 0 0) = .instr (.hwTxReady 1) ∧ decode (rec 0x00000282 0 0 0 0) = .instr (.hwNotReady 2) ∧
    decode (rec 0x00000083 0 0 0 0) = .instr (.hwStall 0) ∧ decode (rec 0x00000184 0 0 0 0) = .instr (.hwBufEmpty 1) ∧
    decode (rec 0x00000088 0 0 0 0) = .instr (.hwAttach 0) ∧ decode (rec 0x00000189 0 0 0 0) = .instr (.hwDetach 1) ∧
    decode (rec 0x0000008A 0 0 0 0) = .instr (.hwLinechg 0) ∧
    decode (.record ⟨0x00000090, 0, 8, 0, 0, [0x80, 6, 0, 1, 0, 0, 18, 0]⟩) =
      .instr (.hwSetup [0x80, 6, 0, 1, 0, 0, 18, 0]) ∧
    decode (rec 0x00000091 0 0 0 0) = .instr .hwStatusDone ∧ decode (rec 0x00000092 0 0 0 0) = .instr .hwSeqErr ∧
    decode (rec 0x000100A0 0 0 0 0) = .instr (.dmaBlock .d0) := by decide

theorem test_decode_sources :
    decode (.source 0b00000101) = .instr (.hBrdy 5) ∧ decode (.source 0b00100011) = .instr (.hBemp 3) ∧
    decode (.source 0b01000010) = .instr (.hNrdy 2) ∧ decode (.source 0b01100100) = .instr (.hAttach 1) ∧
    decode (.source 0b01100001) = .instr (.hDetach 0) ∧ decode (.source 0b01100110) = .instr (.hLinechg 1) ∧
    decode (.source 0b10000000) = .instr .hSetup ∧ decode (.source 0b10000001) = .instr .hStsdone ∧
    decode (.source 0b10000010) = .instr .hSeqerr := by decide

/-- R87: a reserved bit of `w0` and of `w4`, an unused field, `fport = 3`, data beside a command, a length that is not that
of the data, unknown codes. -/
theorem test_decode_rejects :
    decode (rec 0x00200102 0 0 0 0) = .invalidArg ∧ decode (rec 0x00000102 0 0 0 0x00080000) = .invalidArg ∧
    decode (rec 0x00000112 0 1 0 0) = .invalidArg ∧ decode (rec 0x00030103 0 0 0 0) = .invalidArg ∧
    decode (.record ⟨0x00000112, 0, 0, 0, 0, [1]⟩) = .invalidArg ∧
    decode (.record ⟨0x00000180, 0, 2, 0, 0, [1]⟩) = .notAStep ∧ decode (rec 0x00000140 0 0 0 0) = .notAStep ∧
    decode (rec 0x00000004 0 0 0 0) = .invalidOp ∧ decode (rec 0x000000C0 0 0 0 0) = .invalidOp ∧
    decode (rec 0x00000042 0 0 0 0) = .notAStep ∧ decode (rec 0x00000093 0 0 0 0) = .notAStep ∧
    decode (.source 0b01100011) = .notAStep ∧ decode (.source 0b10000011) = .notAStep ∧
    decode (.source 0b10100000) = .notAStep := by decide

theorem test_table_word : decodeTableWord 160 (0x111 + 0x1000 * 2 ^ 32 + 130 * 2 ^ 64 + 7 * 2 ^ 96) =
    some (.write 1 0x1000 130 7) ∧ decodeTableWord 8 0x80 = some .hSetup ∧ decodeTableWord 32 0x12 = some (.stop 0) := by
  decide

/-! ### States for the tests -/

/-- A small instance: three pipes, two physical ports, DMA blocks of four bytes, two debounce tries, two reset polls. -/
def cfg (m : Mode) : Cfg :=
  { Cfg.default with
    mode := m, numPipes := 3, numPhysPorts := 2, dmaBlockSizeD0 := 4, dmaBlockSizeD1 := 4, debounceMaxTries := 2
    resetPollMax := 2 }

/-- After reset, with draws supplied: a port clear confirmed at the first poll, an agreed full-speed line, a handshake that
ends at high speed, a DMA block of two bytes, toggles 0. -/
def quiet (m : Mode) : State :=
  { State.resetFor (cfg m) with
    draws := ⟨[1], [.lsFull, .lsFull], [.hsInProgress, .hsDoneHigh], [[1, 2]], [0], 0⟩
    mem := [(16, 10), (17, 11), (18, 12), (19, 13), (20, 14)] }

/-- The next port clear takes 101 polls, one more than `PORT_CLEAR_MAX_SPIN`. -/
def slow (s : State) : State := s.setDraws { s.draws with clearPolls := [101] }

/-- Pipe 1 configured as bulk with packets of two bytes. -/
def idle (d : UsbDir) : State :=
  (quiet .host).modPipe 1 fun q => { q with configured := true, dir := d, mps := 2, devaddr := some 1 }

/-- Pipe 1 with an armed request of `n` bytes at address 16, callback 7, as R120 leaves it. -/
def armed (d : UsbDir) (n : Word) : State :=
  ((((idle d).modPipe 1 fun q => { (q.setSlot (xdirOf .host d) ⟨.armed, 16, n, n, 7, .cpu, false⟩) with pid := .buf }).modPort .c
    fun q => { q with owner := some 1 }).setEnb (.brdy 1) true).setEnb (.nrdy 1) true

/-- Pipe 1 with a DMA request of `n` bytes on `PORT_D0`, `k` of its `b` blocks remaining, `moved` bytes in the last one. -/
def dma (d : UsbDir) (n : Word) (b k moved : Nat) : State :=
  ((((idle d).modPipe 1 fun q =>
      { (q.setSlot (xdirOf .host d) ⟨.dmaArmed, 16, n, n, 7, .dma .d0, false⟩) with pid := .buf }).modPort .d0
    fun q => { q with owner := some 1, dreq := true }).setEnb (.nrdy 1) true).modChan .d0 fun _ =>
      ⟨true, 1, xdirOf .host d, 16, 4, 4, b, k, moved, decide (k ≠ 0), decide (k = 0), BitVec.ofNat 32 (4 * b)⟩

/-- Port 0 in a given link state. -/
def linked (x : LinkState) (c : Conn) : State :=
  gate 0 ((quiet .host).modLink 0 fun l =>
    { l with state := x, conn := c, busActive := decide (x = .active), suspended := decide (x = .suspended) })

/-- A peripheral in a given control state, with a setup packet of direction bit `b` and data length `n`. -/
def control (x : CtrlState) (b n : Byte) : State :=
  (quiet .peripheral).modCtrl fun _ => ⟨x, #v[b, 0, 0, 0, 0, 0, n, 0], 0, decide (x = .cStatusStage)⟩

/-- A data stage on pipe 0 that sends two bytes, callback 7. -/
def dataStage : State :=
  ((((control .cDataStage 0x80 2).modPipe 0 fun q =>
      { q with slotTx := ⟨.armed, 16, 2, 2, 7, .cpu, false⟩, curDir := .tx, pid := .buf }).modPort .c fun q =>
    { q with owner := some 0 }).setEnb (.brdy 0) true).setEnb (.nrdy 0) true

/-- Whether an operation answers a next state of which `p` holds. -/
def after (i : Instr) (s : State) (p : State → Bool) : Bool :=
  match exec i s with
  | .next t => p t
  | .fault _ => false
  | .refused _ => false

/-- Whether an operation answers the refusal `r`. -/
def refuses (i : Instr) (s : State) (r : Refusal) : Bool :=
  match exec i s with
  | .next _ => false
  | .fault _ => false
  | .refused x => decide (x = r)

/-! ### Pipe/FIFO Manager -/

theorem test_configure_pipe : after (.configurePipe 2 .interrupt .inn 8 (some 5)) (quiet .host) (fun t =>
    t.ret == some .ok && t.pipe 2 == { (quiet .host).pipe 2 with
      configured := true, ttype := .interrupt, dir := .inn, mps := 8, devaddr := some 5 }) = true := by decide

theorem test_configure_busy : after (.configurePipe 1 .bulk .out 64 (some 1)) (armed .out 3) (fun t =>
    t == (armed .out 3).returns .busy) = true := by decide

theorem test_release_pipe : after (.releasePipe 1) (armed .out 3) (fun t =>
    t.ret == some .ok && !(t.pipe 1).configured && t.cbLog == [⟨7, 1, .stopped, 0⟩] && !t.enb (.brdy 1) &&
    (t.port .c).owner == none) = true := by decide

theorem test_release_pipe_zero : after (.releasePipe 0) (quiet .host) (fun t =>
    t.ret == some .ok && (t.pipe 0).configured && (t.pipe 0).devaddr == some 0) = true := by decide

theorem test_acquire_port : after (.acquirePort 1 .d1) (armed .out 3) (fun t =>
    t.ret == some .ok && (t.port .d1).owner == some 1 && (t.port .c).owner == none && t.enb (.brdy 1)) = true := by decide

theorem test_acquire_port_wedged : after (.acquirePort 1 .d1) (slow (idle .out)) (fun t =>
    t.ret == some .portWedgedNow && (t.pipe 1).wedged && (t.port .d1).owner == none && t.cbLog == []) = true := by decide

/-! ### Transfers, CPU path -/

theorem test_write : after (.write 1 16 3 7) (idle .out) (fun t =>
    t.ret == some .ok && (t.pipe 1).slotTx == ⟨.armed, 16, 3, 3, 7, .cpu, false⟩ && (t.pipe 1).trncnt == 2 &&
    (t.pipe 1).pid == .buf && t.enb (.brdy 1) && t.enb (.nrdy 1) && !t.enb (.bemp 1) && (t.port .c).owner == some 1) =
    true := by decide

theorem test_write_overrun : after (.write 1 16 3 9) (armed .out 3) (fun t =>
    t == (armed .out 3).returns .queueOverrun) = true := by decide

theorem test_read : after (.read 1 0 0 7) (idle .inn) (fun t =>
    t.ret == some .ok && (t.pipe 1).slotRx == ⟨.armed, 0, 0, 0, 7, .cpu, false⟩ && (t.pipe 1).trncnt == 0) = true := by
  decide

theorem test_read_top_of_memory : after (.read 1 0xFFFFFFFF 2 7) (idle .inn) (fun t => t.ret == some .invalidArg) = true ∧
    after (.read 1 0xFFFFFFFF 1 7) (idle .inn) (fun t => t.ret == some .ok) = true := by decide

theorem test_stop : after (.stop 1) (dma .out 9 2 1 4) (fun t =>
    t.ret == some .ok && t.cbLog == [⟨7, 1, .stopped, 0⟩] && !(t.chan .d0).bound && !(t.chan .d0).armed &&
    !(t.port .d0).dreq && (t.pipe 1).pid == .nak) = true := by decide

/-- Packet law of R125 on the last, short chunk: address 18 holds 12. -/
theorem test_h_brdy_write : after (.hBrdy 1)
    ((armed .out 3).modPipe 1 fun q => { q with slotTx := { q.slotTx with buf := 18, remaining := 1 } }) (fun t =>
    t.txLog == [⟨1, [12], true⟩] && t.cbLog == [⟨7, 1, .exact, 3⟩] && t.fifoLog == [⟨.c, .w, 1, 12⟩]) = true := by decide

/-- A read of three bytes that receives one: short, and one byte reaches address 16. -/
theorem test_h_brdy_read : after (.hBrdy 1) ((armed .inn 3).modPipe 1 fun q => { q with rxFifo := some [99] }) (fun t =>
    Memory.read t.mem 16 == 99 && Memory.read t.mem 17 == 11 && t.cbLog == [⟨7, 1, .shortPacket, 1⟩] &&
    (t.pipe 1).rxFifo == none) = true := by decide

theorem test_h_bemp : after (.hBemp 1) (armed .out 3) (fun t => t == armed .out 3) = true := by decide

/-- The ceiling is 3: the first not-ready response retries, the third ends the request. -/
theorem test_h_nrdy : after (.hNrdy 1) (armed .out 3) (fun t =>
    (t.pipe 1).ignoreCnt == 1 && t.timeLog == [.delay 1000] && t.cbLog == []) = true ∧
    after (.hNrdy 1) ((armed .out 3).modPipe 1 fun q => { q with ignoreCnt := 2 }) (fun t =>
    t.cbLog == [⟨7, 1, .notReadyExceeded, 0⟩] && t.timeLog == []) = true := by decide

/-! ### Transfers, DMA path -/

theorem test_dma_start : after (.dmaStart 1 16 9 .d0 7) (idle .out) (fun t =>
    t.ret == some .ok && t.chan .d0 == ⟨true, 1, .tx, 16, 4, 4, 2, 2, 4, true, false, 8⟩ && (t.port .d0).dreq &&
    (t.pipe 1).slotTx == ⟨.dmaArmed, 16, 9, 9, 7, .dma .d0, false⟩ && !t.enb (.brdy 1) && t.enb (.nrdy 1)) = true := by
  decide

theorem test_dma_start_delegates : after (.dmaStart 1 16 3 .d0 7) (idle .out) (fun t =>
    (t.pipe 1).slotTx == ⟨.armed, 16, 3, 3, 7, .cpu, false⟩ && (t.port .c).owner == some 1) = true := by decide

/-- Nine bytes, two blocks of four moved: one byte remains for the CPU path. -/
theorem test_dma_irq_remainder : after (.dmaIrq .d0) (dma .out 9 2 0 4) (fun t =>
    (t.pipe 1).slotTx == ⟨.armed, 24, 9, 1, 7, .cpu, true⟩ && (t.port .c).owner == some 1 && t.enb (.brdy 1) &&
    !(t.chan .d0).bound) = true := by decide

/-- Four bytes in one block: a zero-length packet ends the write. -/
theorem test_dma_irq_end : after (.dmaIrq .d0) (dma .out 4 1 0 4) (fun t =>
    t.txLog == [⟨1, [], true⟩] && t.cbLog == [⟨7, 1, .exact, 4⟩]) = true := by decide

theorem test_dma_block_write : after (.dmaBlock .d0) (dma .out 4 1 1 4) (fun t =>
    t.txLog == [⟨1, [10, 11], false⟩, ⟨1, [12, 13], false⟩] && (t.chan .d0).done && !(t.chan .d0).armed &&
    (t.chan .d0).addr == 20 && (t.chan .d0).crb == 0) = true := by decide

/-- A short block of two bytes ends a read although a block remains. -/
theorem test_dma_block_read : after (.dmaBlock .d0) (dma .inn 9 2 2 4) (fun t =>
    Memory.read t.mem 16 == 1 && Memory.read t.mem 17 == 2 && Memory.read t.mem 18 == 12 && (t.chan .d0).done &&
    (t.chan .d0).crb == 1 && (t.chan .d0).lastLen == 2) = true := by decide

/-! ### Host link -/

theorem test_link_attach_process : after (.linkAttachProcess 0) (linked .attachDetecting .cDetached) (fun t =>
    t.ret == some .ok && (t.link 0).state == .fullSpeedAttached && (t.link 0).conn == .cFullSpeed &&
    t.timeLog == [.delay 1000] && t.evLog == [⟨.evAttach, 0, .sFull⟩] && t.enb (.detach 0) && !t.enb (.attach 0)) =
    true := by decide

theorem test_link_bus_reset : after (.linkBusReset 0) (linked .fullSpeedAttached .cFullSpeed) (fun t =>
    t.ret == some .ok && (t.link 0).state == .active && (t.link 0).conn == .cHighSpeed && (t.link 0).busActive &&
    t.timeLog == [.delay 50000, .delay 1000, .delay 10000] && t.evLog == [⟨.evBusResetComplete, 0, .sHigh⟩]) = true := by
  decide

theorem test_link_suspend : after (.linkSuspend 0) (linked .active .cHighSpeed) (fun t =>
    (t.link 0).state == .suspended && (t.link 0).suspended && !(t.link 0).busActive && t.enb (.linechg 0) &&
    t.evLog == [⟨.evSuspend, 0, .sHigh⟩]) = true := by decide

theorem test_link_resume : after (.linkResume 0) (linked .suspended .cLowSpeed) (fun t =>
    (t.link 0).state == .active && !(t.link 0).suspended && (t.link 0).busActive && !t.enb (.linechg 0) &&
    t.timeLog == [.delay 20000] && t.evLog == [⟨.evResume, 0, .sLow⟩]) = true := by decide

theorem test_link_set_address : after (.linkSetAddress 0 5) (linked .active .cHighSpeed) (fun t =>
    t.ret == some .ok && (t.link 0).dev == some 5) = true ∧
    after (.linkSetAddress 0 5) ((linked .active .cHighSpeed).modLink 1 fun l => { l with dev := some 5 }) (fun t =>
    t.ret == some .invalidArg && (t.link 0).dev == none) = true := by decide

theorem test_h_attach : after (.hAttach 0) (quiet .host) (fun t =>
    (t.link 0).state == .attachDetecting && !t.enb (.attach 0) && t.enb (.attach 1)) = true := by decide

theorem test_h_detach : after (.hDetach 0)
    ((armed .out 3).modLink 0 fun l => { l with state := .active, conn := .cFullSpeed, dev := some 1, busActive := true })
    (fun t => t.link 0 == Link.reset && !(t.pipe 1).configured && t.cbLog == [⟨7, 1, .stopped, 0⟩] &&
      t.evLog == [⟨.evDetach, 0, .sNone⟩] && t.enb (.attach 0)) = true := by decide

/-- R130 inside R175: the busy pipe's channel is torn down, its port cleared or, when the clear takes too long, kept with
the pipe wedged; `PORT_C`, owned by pipe 2 of another device, stays. -/
theorem test_h_detach_dma : (let s := ((dma .out 9 2 1 4).modLink 0 fun l =>
      { l with state := .active, conn := .cFullSpeed, dev := some 1 }).modPort .c fun q => { q with owner := some 2 }
    after (.hDetach 0) s (fun t => !(t.chan .d0).bound && !(t.chan .d0).armed && (t.port .d0).owner == none &&
      !(t.port .d0).dreq && !(t.pipe 1).wedged && (t.port .c).owner == some 2) &&
    after (.hDetach 0) (slow s) (fun t => !(t.chan .d0).bound && (t.port .d0).owner == some 1 && (t.pipe 1).wedged)) =
    true := by decide

theorem test_h_linechg : after (.hLinechg 0) (linked .suspended .cHighSpeed) (fun t => (t.link 0).wakeReq) = true ∧
    after (.hLinechg 0) (linked .active .cHighSpeed) (fun t => !(t.link 0).wakeReq) = true := by decide

/-! ### Peripheral requests -/

theorem test_ctrl_ack : after .ctrlAck (control .cSetupReceived 0 0) (fun t =>
    t.ret == some .ok && t.ctrl.state == .cStatusStage && t.ctrl.statusEn && (t.pipe 0).pid == .buf) = true ∧
    after .ctrlAck (control .cSetupReceived 0 2) (fun t => t.ret == some .invalidState) = true := by decide

theorem test_ctrl_stall : after .ctrlStall dataStage (fun t =>
    t.ret == some .ok && t.ctrl.state == .cStalled && (t.pipe 0).pid == .stall && t.cbLog == [⟨7, 0, .stopped, 0⟩]) =
    true := by decide

theorem test_ctrl_data : after (.ctrlData 16 2 7) (control .cSetupReceived 0x80 2) (fun t =>
    t.ret == some .ok && t.ctrl.state == .cDataStage && t.ctrl.dataCb == 7 && (t.pipe 0).slotTx.state == .armed &&
    (t.pipe 0).slotRx.state == .idle) = true := by decide

theorem test_h_setup : after .hSetup dataStage (fun t =>
    t.ctrl.state == .cSetupReceived && t.cbLog == [⟨7, 0, .stopped, 0⟩] && (t.pipe 0).pid == .nak &&
    t.setupLog == [#v[0x80, 0, 0, 0, 0, 0, 2, 0]]) = true := by decide

theorem test_h_stsdone : after .hStsdone (control .cStatusStage 0 0) (fun t =>
    t.ctrl.state == .cIdle && !t.ctrl.statusEn && (t.pipe 0).pid == .nak) = true := by decide

theorem test_h_seqerr : after .hSeqerr dataStage (fun t =>
    t.ctrl.state == .cStalled && (t.pipe 0).pid == .stall && t.cbLog == [⟨7, 0, .stall, 0⟩]) = true := by decide

/-- The last chunk of a data stage ends in the status stage (R198); two bytes in packets of up to 64. -/
theorem test_data_stage_end : after (.hBrdy 0) dataStage (fun t =>
    t.ctrl.state == .cStatusStage && t.ctrl.statusEn && (t.pipe 0).pid == .buf && t.cbLog == [⟨7, 0, .exact, 2⟩]) =
    true := by decide

/-! ### Dispatcher and environment -/

/-- A completion before a not-ready event of the same run: the request ends `Exact` (R212). -/
theorem test_usb_irq_order : after .usbIrq (((armed .out 1).setSts (.brdy 1) true).setSts (.nrdy 1) true) (fun t =>
    t.cbLog == [⟨7, 1, .exact, 1⟩] && !t.sts (.brdy 1) && t.sts (.nrdy 1)) = true := by decide

theorem test_usb_irq_idle : refuses .usbIrq (quiet .host) .notEnabled = true := by decide

theorem test_hw_rx_packet : after (.hwRxPacket 1 [1, 2]) (armed .inn 3) (fun t =>
    (t.pipe 1).rxFifo == some [1, 2] && t.sts (.brdy 1)) = true ∧
    refuses (.hwRxPacket 1 [1, 2, 3]) (armed .inn 3) .notEnabled = true := by decide

theorem test_hw_tx_ready : after (.hwTxReady 1) (armed .out 3) (fun t => t.sts (.brdy 1)) = true ∧
    refuses (.hwTxReady 1) ((armed .out 3).setSts (.brdy 1) true) .notEnabled = true := by decide

theorem test_hw_not_ready : after (.hwNotReady 1) (dma .out 9 2 1 4) (fun t => t.sts (.nrdy 1)) = true := by decide

theorem test_hw_stall : after (.hwStall 1) (armed .out 3) (fun t =>
    t.sts (.nrdy 1) && (t.pipe 1).pid == .stall) = true := by decide

theorem test_hw_buf_empty : after (.hwBufEmpty 1) (idle .out) (fun t => t.sts (.bemp 1)) = true := by decide

theorem test_hw_attach : after (.hwAttach 1) (quiet .host) (fun t => t.linksts == 0b00010000) = true := by decide

theorem test_hw_detach : after (.hwDetach 0) (quiet .host) (fun t => t.linksts == 0b00000010) = true := by decide

theorem test_hw_linechg : after (.hwLinechg 1) (quiet .host) (fun t => t.linksts == 0b01000000) = true := by decide

theorem test_hw_setup : after (.hwSetup [1, 2, 3, 4, 5, 6, 7, 8]) (quiet .peripheral) (fun t =>
    t.ctrl.setup == #v[1, 2, 3, 4, 5, 6, 7, 8] && t.ctrlsts == 0b0001) = true := by decide

theorem test_hw_status_done : after .hwStatusDone (control .cStatusStage 0 0) (fun t => t.ctrlsts == 0b0010) = true := by
  decide

theorem test_hw_seq_err : after .hwSeqErr (quiet .peripheral) (fun t => t.ctrlsts == 0b0100) = true := by decide

/-- R64, R66: seven bytes in words of four, high byte first; five bytes in words of two, low byte first. -/
theorem test_fifo_split : fifoSplit .c .w 4 .big [0x11, 0x22, 0x33, 0x44, 0x55, 0x66, 0x77] =
    [⟨.c, .w, 4, 0x11223344⟩, ⟨.c, .w, 1, 0x55⟩, ⟨.c, .w, 1, 0x66⟩, ⟨.c, .w, 1, 0x77⟩] ∧
    fifoSplit .c .r 2 .little [0x11, 0x22, 0x33, 0x44, 0x55] =
    [⟨.c, .r, 2, 0x2211⟩, ⟨.c, .r, 2, 0x4433⟩, ⟨.c, .r, 1, 0x55⟩] := by decide

/-- R153: three bytes only by bytes, six by two, 192 by four. -/
theorem test_element_width : elementWidth [1, 2, 4] 3 = 1 ∧ elementWidth [1, 2, 4] 6 = 2 ∧ elementWidth [1, 2, 4] 192 = 4 ∧
    elementWidth [1, 2] 64 = 2 := by decide

/-- A memory write past the top of the address space wraps (R62). -/
theorem test_memory_wraps : memWrite [] 0xFFFFFFFF [1, 2] = [(0, 2), (0xFFFFFFFF, 1)] ∧
    memRead [(0, 2), (0xFFFFFFFF, 1)] 0xFFFFFFFF 2 = [1, 2] := by decide

/-! ### Witnesses: the hypotheses of each statement can be met together -/

/-- The next state of an operation that answers one. -/
def nx (i : Instr) (s : State) : State :=
  match exec i s with
  | .next t => t
  | .fault _ => s
  | .refused _ => s

/-- Whether an operation answers a next state. -/
def ok (i : Instr) (s : State) : Bool := after i s fun _ => true

theorem exec_nx {i : Instr} {s : State} (h : ok i s = true) : exec i s = .next (nx i s) := by
  unfold ok after at h
  unfold nx
  split at h <;> simp_all

/-- The state `s` with one input waiting. -/
def offered (i : Instr) (s : State) : State := s.setInbox [encode i]

theorem witness_DecodeOfEncode : (Instr.configurePipe 2 .isochronous .inn 1024 (some 127)).wellFormed (cfg .host) = true ∧
    (Instr.hLinechg 1).wellFormed (cfg .host) = true := by decide

theorem witness_EncodeOfDecode :
    decodeRecord ⟨0x00040101, 0, 0, 0, 0x00000040, []⟩ = .instr (.configurePipe 1 .bulk .out 64 none) ∧
    decodeRecord ⟨0x00010113, 0xFFFFFFFF, 1, 0xFFFFFFFF, 0, []⟩ =
      .instr (.dmaStart 1 0xFFFFFFFF 1 .d0 0xFFFFFFFF) ∧ decodeSource 0b01100110 = .instr (.hLinechg 1) := by decide

theorem witness_DefectiveRecords_unknown : (⟨0x000000FF, 0, 0, 0, 0, []⟩ : Record).op.toNat ∉ tableOps ∧
    (⟨0x00000142, 0, 0, 0, 0, []⟩ : Record).op.toNat ∉ tableOps := by decide

theorem witness_DefectiveRecords_defect : (⟨0x00000312, 0, 0, 0, 0, []⟩ : Record).op.toNat ∈ tableOps ∧
    (⟨0x00000312, 0, 0, 0, 0, []⟩ : Record).Defective (cfg .host) ∧
    (⟨0x80000040, 0, 0, 0, 0, []⟩ : Record).Defective (cfg .host) ∧
    (⟨0x00000101, 0, 0, 0, 0x00000401, []⟩ : Record).Defective (cfg .host) := by
  refine ⟨by decide, ?_, ?_, ?_⟩
  · exact .inr (.inr (.inr (.inr (.inr (.inl (by decide))))))
  · exact .inl (by decide)
  · exact .inr (.inr (.inr (.inr (.inl (by decide)))))

theorem witness_ModeLegality : (Instr.linkSuspend 1).wellFormed (quiet .peripheral).cfg = true ∧
    (Instr.linkSuspend 1).hostOnly = true ∧ (quiet .peripheral).cfg.mode = .peripheral ∧
    Instr.hSetup.wellFormed (quiet .host).cfg = true ∧ Instr.hSetup.peripheralOnly = true ∧
    (quiet .host).cfg.mode = .host := by decide

theorem witness_ModeLegality_cpuOnly : (State.resetFor { cfg .host with strategy := .cpuOnly }).cfg.strategy = .cpuOnly ∧
    (State.resetFor { cfg .host with strategy := .cpuOnly }).pipeOf? (2 : BitVec 8).toNat = some 2 ∧
    (Instr.dmaIrq .d1).wellFormed { cfg .host with strategy := .cpuOnly } = true ∧
    (Instr.dmaStart 2 0 0 .d1 0).wellFormed { cfg .host with strategy := .cpuOnly } = true := by decide

theorem witness_StepRunsDecodedInstruction :
    (offered (.stop 1) (armed .out 3)).inbox = encode (.stop 1) :: [] ∧ decode (encode (.stop 1)) = .instr (.stop 1) ∧
    (quiet .host).inbox = [] ∧ decodeTableWord 32 0x112 = some (.stop 1) := by decide

theorem witness_ConfigurationNeverChanges : exec (.stop 1) (armed .out 3) = .next (nx (.stop 1) (armed .out 3)) ∧
    step (offered (.stop 1) (armed .out 3)) = .next (nx (.stop 1) (armed .out 3)) :=
  ⟨exec_nx (by decide), exec_nx (i := .stop 1) (s := armed .out 3) (by decide)⟩

theorem witness_EveryCommandReturns : (Instr.dmaStart 200 5 6 .c 7).format = .cmd := by decide

theorem witness_OwnFields : exec .hSetup dataStage = .next (nx .hSetup dataStage) ∧ Instr.hSetup.format ≠ .cmd :=
  ⟨exec_nx (by decide), by decide⟩

theorem witness_RejectedCommandChangesNothing :
    exec (.write 1 16 3 7) (armed .out 3) = .next (nx (.write 1 16 3 7) (armed .out 3)) ∧
    (nx (.write 1 16 3 7) (armed .out 3)).ret = some .queueOverrun ∧
    exec (.acquirePort 1 .d0) (slow (armed .out 3)) = .next (nx (.acquirePort 1 .d0) (slow (armed .out 3))) ∧
    (nx (.acquirePort 1 .d0) (slow (armed .out 3))).ret = some .portWedgedNow ∧
    (nx (.acquirePort 1 .d0) (slow (armed .out 3))).cbLog = [⟨7, 1, .portWedged, 0⟩] :=
  ⟨exec_nx (by decide), by decide, exec_nx (by decide), by decide, by decide⟩

/-- One request accepted, one ended: both change the ledger's parts and keep its count. -/
theorem witness_RequestsEndExactlyOnce :
    exec (.write 1 16 3 7) (idle .out) = .next (nx (.write 1 16 3 7) (idle .out)) ∧
    (nx (.write 1 16 3 7) (idle .out)).ledger = [(7, 1)] ∧
    exec (.stop 1) (armed .out 3) = .next (nx (.stop 1) (armed .out 3)) ∧
    (armed .out 3).ledger = [(7, 1)] ∧ (nx (.stop 1) (armed .out 3)).ledger = [(7, 1)] :=
  ⟨exec_nx (by decide), by decide, exec_nx (by decide), by decide, by decide⟩

theorem witness_EnvironmentWrites : (Instr.dmaBlock .d0).format = .env ∧
    exec (.dmaBlock .d0) (dma .inn 9 2 2 4) = .next (nx (.dmaBlock .d0) (dma .inn 9 2 2 4)) :=
  ⟨by decide, exec_nx (by decide)⟩

theorem witness_ConfiguredLifecycle :
    exec (.configurePipe 2 .bulk .out 8 (some 1)) (quiet .host) =
      .next (nx (.configurePipe 2 .bulk .out 8 (some 1)) (quiet .host)) ∧
    ((quiet .host).pipe 2).configured = false ∧
    ((nx (.configurePipe 2 .bulk .out 8 (some 1)) (quiet .host)).pipe 2).configured = true ∧
    exec (.releasePipe 1) (idle .out) = .next (nx (.releasePipe 1) (idle .out)) ∧
    ((idle .out).pipe 1).configured = true ∧ ((nx (.releasePipe 1) (idle .out)).pipe 1).configured = false :=
  ⟨exec_nx (by decide), by decide, by decide, exec_nx (by decide), by decide, by decide⟩

theorem witness_StatusBits :
    exec (.hwAttach 0) (quiet .host) = .next (nx (.hwAttach 0) (quiet .host)) ∧ (quiet .host).sts (.attach 0) = false ∧
    (nx (.hwAttach 0) (quiet .host)).sts (.attach 0) = true ∧
    exec .usbIrq ((quiet .host).setSts (.attach 0) true) = .next (nx .usbIrq ((quiet .host).setSts (.attach 0) true)) ∧
    ((quiet .host).setSts (.attach 0) true).sts (.attach 0) = true ∧
    (nx .usbIrq ((quiet .host).setSts (.attach 0) true)).sts (.attach 0) = false :=
  ⟨exec_nx (by decide), by decide, by decide, exec_nx (by decide), by decide, by decide⟩

theorem witness_ResetMeetsInvariants : (cfg .host).wf = true ∧ (cfg .peripheral).wf = true ∧ Cfg.default.wf = true := by decide

/-- A step taken in states that meet the invariants. -/
theorem witness_StepKeepsInvariants : step (offered (.stop 1) (armed .out 3)) = .next (nx (.stop 1) (armed .out 3)) :=
  exec_nx (i := .stop 1) (s := armed .out 3) (by decide)

theorem witness_StepKeepsPipeInv : PipeInv (offered (.stop 1) (armed .out 3)) :=
  ⟨by decide, by decide, by decide, by decide, by decide⟩

theorem witness_StepKeepsPortInv : PortInv (offered (.stop 1) (armed .out 3)) := by
  refine ⟨?_, ?_, by decide, ?_⟩
  · intro p q i hp hq
    cases p <;> cases q <;> (revert hp hq; revert i; decide)
  · intro p; cases p <;> decide
  · intro p; cases p <;> decide

theorem witness_StepKeepsChanInv : ChanInv (dma .out 9 2 1 4) ∧
    step (offered (.dmaBlock .d0) (dma .out 9 2 1 4)) = .next (nx (.dmaBlock .d0) (dma .out 9 2 1 4)) := by
  refine ⟨⟨?_, ?_, ?_⟩, exec_nx (i := .dmaBlock .d0) (s := dma .out 9 2 1 4) (by decide)⟩ <;>
    (intro p; cases p <;> decide)

theorem witness_StepKeepsLinkInv : LinkInv (linked .active .cHighSpeed) ∧
    step (offered (.linkSuspend 0) (linked .active .cHighSpeed)) =
      .next (nx (.linkSuspend 0) (linked .active .cHighSpeed)) := by
  refine ⟨⟨?_, ?_, ?_⟩, exec_nx (i := .linkSuspend 0) (s := linked .active .cHighSpeed) (by decide)⟩
  · intro k
    fin_cases k <;> exact ⟨by decide, by decide, by decide, by decide, by decide, by decide, by decide, by decide, by decide⟩
  · intro _ k _
    unfold State.Gated
    fin_cases k <;> decide
  · intro x k _ h
    exact absurd ⟨rfl, k.isLt⟩ h

theorem witness_StepKeepsCtrlInv : CtrlInv (control .cSetupReceived 0 0) ∧
    step (offered .ctrlAck (control .cSetupReceived 0 0)) = .next (nx .ctrlAck (control .cSetupReceived 0 0)) := by
  refine ⟨⟨by decide, ?_⟩, exec_nx (i := .ctrlAck) (s := control .cSetupReceived 0 0) (by decide)⟩
  intro x hx
  cases x <;> first | decide | (cases hx)

theorem witness_StepKeepsMemoryForm : Memory.wf (dma .inn 9 2 2 4).mem = true ∧
    step (offered (.dmaBlock .d0) (dma .inn 9 2 2 4)) = .next (nx (.dmaBlock .d0) (dma .inn 9 2 2 4)) ∧
    (nx (.dmaBlock .d0) (dma .inn 9 2 2 4)).mem ≠ (dma .inn 9 2 2 4).mem :=
  ⟨by decide, exec_nx (i := .dmaBlock .d0) (s := dma .inn 9 2 2 4) (by decide), by decide⟩

/-- A done write channel with a block remaining, which no run reaches. -/
theorem witness_OnlyIncompleteWriteFaults :
    exec (.dmaIrq .d0) ((dma .out 9 2 1 4).modChan .d0 fun c => { c with done := true }) =
      .fault (.dmaIncompleteWrite .d0) := by
  rfl

theorem witness_ConfigurePipe_rejects : (cfg .host).numPipes ≤ (3 : BitVec 8).toNat ∧
    (quiet .host).pipeOf? (2 : BitVec 8).toNat = some 2 ∧ (quiet .host).pipeOf? (0 : BitVec 8).toNat = some 0 ∧
    1024 < (1025 : BitVec 11).toNat ∧ (quiet .host).cfg.mode = .host ∧ (quiet .peripheral).cfg.mode = .peripheral := by
  decide

theorem witness_ConfigurePipe_accepts : (armed .out 3).pipeOf? (1 : BitVec 8).toNat = some 1 ∧
    1 ≤ (1 : BitVec 11).toNat ∧ (1024 : BitVec 11).toNat ≤ 1024 ∧ (armed .out 3).busy 1 = true ∧
    (idle .out).busy 1 = false ∧ (quiet .peripheral).busy 0 = false := by decide

theorem witness_ReleasePipe : (armed .out 3).pipeOf? (1 : BitVec 8).toNat = some 1 ∧ (armed .out 3).busy 1 = true ∧
    (quiet .host).pipeOf? (0 : BitVec 8).toNat = some 0 ∧ (cfg .host).numPipes ≤ (3 : BitVec 8).toNat := by decide

/-- A port the pipe owns, a clear confirmed at the last poll allowed, one that is not. -/
theorem canAcquire_cases : (armed .out 3).CanAcquire 1 .c ∧
    ((idle .out).setDraws { (idle .out).draws with clearPolls := [100] }).CanAcquire 1 .d1 ∧
    ¬ (slow (armed .out 3)).CanAcquire 1 .d1 ∧ ¬ (slow (idle .out)).CanAcquire 1 .c := by
  unfold State.CanAcquire
  decide

theorem witness_AcquirePortCommand : (idle .out).pipeOf? (1 : BitVec 8).toNat = some 1 ∧
    ((idle .out).pipe 1).configured = true ∧ ((idle .out).pipe 1).wedged = false ∧
    ((quiet .host).pipe 1).configured = false ∧ (slow (armed .out 3)).pipeOf? (1 : BitVec 8).toNat = some 1 ∧
    (((idle .out).modPipe 1 fun q => { q with wedged := true }).pipe 1).wedged = true := by decide

theorem witness_WedgedPipe : (clearPort .c (slow (armed .out 3))).1 = false ∧
    exec (.stop 1) ((armed .out 3).modPipe 1 fun q => { q with wedged := true }) =
      .next (nx (.stop 1) ((armed .out 3).modPipe 1 fun q => { q with wedged := true })) ∧
    (((armed .out 3).modPipe 1 fun q => { q with wedged := true }).pipe 1).wedged = true ∧
    ((armed .out 3).modPipe 1 fun q => { q with wedged := true }).pipeOf? (1 : BitVec 8).toNat = some 1 :=
  ⟨by decide, exec_nx (by decide), by decide, by decide⟩

theorem witness_SubmissionAccepted : (idle .out).pipeOf? (1 : BitVec 8).toNat = some 1 ∧
    ((idle .out).pipe 1).configured = true ∧ ((idle .out).pipe 1).wedged = false ∧ (idle .out).xdir 1 = .tx ∧
    (idle .inn).xdir 1 = .rx ∧ (0xFFFFFFFF : Word).toNat + (1 : Word).toNat ≤ 2 ^ 32 ∧
    (((idle .out).pipe 1).slot .tx).state = .idle ∧ ((idle .out).port .c).stage = [] ∧
    (idle .out).cfg.pushFirstOnWrite = false ∧ (drawClearPolls (idle .out)).1 ≤ (idle .out).cfg.portClearMaxSpin := by
  decide

theorem witness_SubmissionAccepted_push :
    (State.resetFor { cfg .host with pushFirstOnWrite := true }).cfg.pushFirstOnWrite = true ∧
    (State.resetFor { cfg .host with pushFirstOnWrite := true }).pipeOf? (0 : BitVec 8).toNat = some 0 ∧
    ((State.resetFor { cfg .host with pushFirstOnWrite := true }).port .c).stage = [] ∧
    ((State.resetFor { cfg .host with pushFirstOnWrite := true }).modPort .c fun q => { q with owner := some 0 }).CanAcquire
      0 .c :=
  ⟨by decide, by decide, by decide, .inl rfl⟩

theorem witness_SubmissionRejected : (cfg .host).numPipes ≤ (3 : BitVec 8).toNat ∧
    (idle .out).pipeOf? (1 : BitVec 8).toNat = some 1 ∧ (1 : PipeId) ≠ 0 ∧ (idle .out).xdir 1 ≠ .rx ∧
    2 ^ 32 < (0xFFFFFFFF : Word).toNat + (2 : Word).toNat ∧ (((armed .out 3).pipe 1).slot .tx).state ≠ .idle ∧
    ((quiet .host).pipe 1).configured = false := by decide

theorem witness_Stop : (cfg .host).numPipes ≤ (3 : BitVec 8).toNat ∧ (armed .out 3).pipeOf? (1 : BitVec 8).toNat = some 1 ∧
    (armed .out 3).busy 1 = true ∧ (idle .out).busy 1 = false := by decide

theorem witness_BufferReadyOnWrite : (armed .out 3).pipeOf? (1 : BitVec 5).toNat = some 1 ∧ (armed .out 3).route 1 = .tx ∧
    ((armed .out 3).pipe 1).slotTx.state = .armed ∧ ((armed .out 3).port .c).stage = [] ∧
    ((armed .out 3).port .c).owner = some 1 := by decide

/-- The port was taken by another pipe, and its clear is not confirmed. -/
theorem witness_BufferReady_wedged :
    ¬ (slow ((armed .out 3).modPort .c fun q => { q with owner := some 2 })).CanAcquire 1 .c ∧
    (slow ((armed .out 3).modPort .c fun q => { q with owner := some 2 })).route 1 = .tx ∧
    ((slow ((armed .out 3).modPort .c fun q => { q with owner := some 2 })).pipe 1).slotTx.state = .armed := by
  unfold State.CanAcquire
  decide

theorem witness_BufferReadyOnRead : (armed .inn 3).pipeOf? (1 : BitVec 5).toNat = some 1 ∧ (armed .inn 3).route 1 = .rx ∧
    ((armed .inn 3).pipe 1).slotRx.state = .armed ∧ ((armed .inn 3).port .c).owner = some 1 ∧
    (((armed .inn 3).modPipe 1 fun q => { q with rxFifo := some [] }).pipe 1).rxFifo = some [] := by decide

theorem witness_SpuriousBufferEvents : (dma .out 9 2 1 4).pipeOf? (1 : BitVec 5).toNat = some 1 ∧
    (((dma .out 9 2 1 4).pipe 1).slot ((dma .out 9 2 1 4).route 1)).state ≠ .armed ∧
    ((armed .inn 3).pipe 1).slotRx.state = .armed ∧ ((armed .inn 3).pipe 1).rxFifo = none := by decide

theorem witness_NotReady : (armed .out 3).pipeOf? (1 : BitVec 5).toNat = some 1 ∧
    (((idle .out).pipe 1).slot ((idle .out).route 1)).state = .idle ∧
    (((armed .out 3).pipe 1).slot ((armed .out 3).route 1)).state ≠ .idle ∧ ((armed .out 3).pipe 1).pid ≠ .stall ∧
    ((armed .out 3).pipe 1).ttype ≠ .isochronous ∧ ((armed .out 3).pipe 1).ignoreCnt + 1 < (armed .out 3).cfg.nrdyCeiling ∧
    (armed .out 3).cfg.nrdyCeiling ≤ 2 + 1 := by decide

theorem witness_WholeWrite : (armed .out 5).pipeOf? (1 : BitVec 5).toNat = some 1 ∧ (armed .out 5).route 1 = .tx ∧
    ((armed .out 5).pipe 1).slotTx.state = .armed ∧ ((armed .out 5).port .c).owner = some 1 ∧
    ((armed .out 5).port .c).stage = [] ∧ 1 ≤ ((armed .out 5).pipe 1).mps := by decide

/-- A request of five bytes in packets of two: three bytes end it short (L < N, L = N and L > N are the cases of the
statement, one witness each). -/
theorem witness_WholeRead : (armed .inn 5).pipeOf? (1 : BitVec 8).toNat = some 1 ∧ (1 : BitVec 5).toNat = (1 : PipeId).val ∧
    (armed .inn 5).route 1 = .rx ∧ ((armed .inn 5).pipe 1).configured = true ∧
    ((armed .inn 5).pipe 1).slotRx.state = .armed ∧ ((armed .inn 5).pipe 1).pid = .buf ∧
    ((armed .inn 5).pipe 1).rxFifo = none ∧ ((armed .inn 5).port .c).owner = some 1 ∧
    ((armed .inn 5).pipe 1).mps < 2 ^ 32 ∧ (∀ b ∈ ([[1, 2]] : List (List Byte)), b.length = ((armed .inn 5).pipe 1).mps) ∧
    ([3] : List Byte).length ≤ ((armed .inn 5).pipe 1).mps ∧
    ([[1, 2]] : List (List Byte)).flatten.length < ((armed .inn 5).pipe 1).slotRx.remaining.toNat ∧
    ([3] : List Byte).length < ((armed .inn 5).pipe 1).mps := by decide

/-- The boundary N = L: five bytes, after two full packets; the hypotheses on the state are those of
`witness_WholeRead`. -/
theorem witness_WholeRead_exact :
    (∀ b ∈ ([[1, 2], [3, 4]] : List (List Byte)), b.length = ((armed .inn 5).pipe 1).mps) ∧
    ([5] : List Byte).length ≤ ((armed .inn 5).pipe 1).mps ∧
    ([[1, 2], [3, 4]] : List (List Byte)).flatten.length < ((armed .inn 5).pipe 1).slotRx.remaining.toNat ∧
    ([[1, 2], [3, 4]] : List (List Byte)).flatten.length + ([5] : List Byte).length =
      ((armed .inn 5).pipe 1).slotRx.remaining.toNat := by decide

/-- Past the boundary, N > L: a full last packet brings a sixth byte. -/
theorem witness_WholeRead_overrun :
    (∀ b ∈ ([[1, 2], [3, 4]] : List (List Byte)), b.length = ((armed .inn 5).pipe 1).mps) ∧
    ([5, 6] : List Byte).length ≤ ((armed .inn 5).pipe 1).mps ∧
    ([[1, 2], [3, 4]] : List (List Byte)).flatten.length < ((armed .inn 5).pipe 1).slotRx.remaining.toNat ∧
    ((armed .inn 5).pipe 1).slotRx.remaining.toNat <
      ([[1, 2], [3, 4]] : List (List Byte)).flatten.length + ([5, 6] : List Byte).length := by decide

theorem witness_DmaStartAccepted : (idle .out).cfg.wf = true ∧ (idle .out).pipeOf? (1 : BitVec 8).toNat = some 1 ∧
    (idle .out).cfg.strategy ≠ .cpuOnly ∧ (idle .out).blockSize .d0 ≤ (4 : Word).toNat ∧
    ((idle .out).pipe 1).ttype = .bulk ∧ (idle .out).blockSize .d0 % ((idle .out).pipe 1).mps = 0 ∧
    ((idle .out).chan .d0).bound = false ∧ (((idle .out).pipe 1).slot ((idle .out).xdir 1)).state = .idle ∧
    (drawClearPolls (idle .out)).1 ≤ (idle .out).cfg.portClearMaxSpin := by decide

theorem witness_DmaStartOtherwise : (cfg .host).numPipes ≤ (3 : BitVec 8).toNat ∧ (.d0 : FPort) = DPort.d0.fport ∧
    (idle .out).pipeOf? (1 : BitVec 8).toNat = some 1 ∧ (3 : Word).toNat < (idle .out).blockSize .d0 ∧
    (idle .out).blockSize .d0 ≤ (4 : Word).toNat ∧ ((dma .out 9 2 1 4).chan .d0).bound = true ∧
    (((armed .out 3).pipe 1).slot ((armed .out 3).xdir 1)).state ≠ .idle := by decide

theorem witness_DmaStartOtherwise_wedged : ¬ (slow (idle .out)).CanAcquire 1 .d0 ∧
    ((slow (idle .out)).chan .d0).bound = false := by
  unfold State.CanAcquire
  decide

theorem witness_DmaBlock : (dma .out 9 2 1 4).cfg.strategy ≠ .cpuOnly ∧ (dma .out 9 2 1 4).canMoveBlock .d0 = true ∧
    ((dma .out 9 2 1 4).chan .d0).dirn = .tx ∧ (dma .inn 9 2 2 4).canMoveBlock .d0 = true ∧
    ((dma .inn 9 2 2 4).chan .d0).dirn = .rx ∧ (dma .out 9 2 0 4).canMoveBlock .d0 = false := by decide

/-- The cases of R155: stale, short read, remainder, end of a read and of a write. -/
theorem witness_DmaComplete : ((dma .out 9 2 1 4).chan .d0).done = false ∧
    ((dma .out 9 2 0 4).chan .d0).done = true ∧ (dma .out 9 2 0 4).dmaStale .d0 = false ∧
    ((dma .out 9 2 0 4).chan .d0).full = true ∧
    ((dma .out 9 2 0 4).chan .d0).bytesMoved < ((dma .out 9 2 0 4).pipe 1).slotTx.remaining.toNat ∧
    ((dma .out 4 1 0 4).pipe 1).slotTx.remaining.toNat ≤ ((dma .out 4 1 0 4).chan .d0).bytesMoved ∧
    ((dma .inn 9 2 0 3).chan .d0).full = false ∧ ((dma .inn 9 2 0 3).chan .d0).done = true ∧
    ((dma .inn 4 1 0 4).chan .d0).full = true ∧ ((dma .out 9 2 0 4).port .c).stage = [] ∧
    ((dma .out 4 1 0 4).port .d0).owner = some 1 ∧ ((dma .out 4 1 0 4).port .d0).stage = [] ∧
    ((dma .out 9 2 0 4).modChan .d0 fun c => { c with bound := false }).dmaStale .d0 = true := by decide

theorem witness_DmaWholeWrite : (dma .out 9 2 2 4).cfg.strategy ≠ .cpuOnly ∧
    (dma .out 9 2 2 4).cfg.pushFirstOnWrite = false ∧ (dma .out 9 2 2 4).pipeOf? (1 : BitVec 5).toNat = some 1 ∧
    (dma .out 9 2 2 4).xdir 1 = .tx ∧ ((dma .out 9 2 2 4).pipe 1).slotTx.state = .dmaArmed ∧
    ((dma .out 9 2 2 4).pipe 1).slotTx.path = .dma .d0 ∧ ((dma .out 9 2 2 4).pipe 1).pid = .buf ∧
    ((dma .out 9 2 2 4).chan .d0) = ⟨true, 1, .tx, ((dma .out 9 2 2 4).pipe 1).slotTx.buf, 4, 4, 2, 2, 4, true, false, 8⟩ ∧
    ((dma .out 9 2 2 4).port .d0) = ⟨some 1, true, []⟩ ∧ ((dma .out 9 2 2 4).port .c) = ⟨none, false, []⟩ ∧
    (drawClearPolls (dma .out 9 2 2 4)).1 ≤ (dma .out 9 2 2 4).cfg.portClearMaxSpin ∧
    ((dma .out 9 2 2 4).chan .d0).blockSize % ((dma .out 9 2 2 4).pipe 1).mps = 0 ∧
    ((dma .out 9 2 2 4).pipe 1).slotTx.remaining.toNat / ((dma .out 9 2 2 4).chan .d0).blockSize = 2 := by decide

theorem witness_AttachAndLineChange : (quiet .host).cfg.mode = .host ∧ (quiet .host).portOf? (1 : BitVec 3).toNat = some 1 ∧
    ((quiet .host).link 1).state = .detached ∧ ((linked .active .cHighSpeed).link 0).state ≠ .detached ∧
    ((linked .suspended .cHighSpeed).link 0).state = .suspended := by decide

theorem witness_LinkAttachProcess : (linked .attachDetecting .cDetached).cfg.mode = .host ∧
    (linked .attachDetecting .cDetached).portOf? (0 : BitVec 8).toNat = some 0 ∧
    ((linked .attachDetecting .cDetached).link 0).state = .attachDetecting ∧
    1 ≤ (linked .attachDetecting .cDetached).cfg.debounceMaxTries ∧ ((quiet .host).link 0).state ≠ .attachDetecting := by
  decide

theorem witness_LinkBusReset : (linked .fullSpeedAttached .cFullSpeed).portOf? (0 : BitVec 8).toNat = some 0 ∧
    ((linked .fullSpeedAttached .cFullSpeed).link 0).state = .fullSpeedAttached ∧
    ((linked .lowSpeedAttached .cLowSpeed).link 0).state = .lowSpeedAttached ∧
    ((quiet .host).link 0).state ≠ .lowSpeedAttached ∧ ((quiet .host).link 0).state ≠ .fullSpeedAttached := by decide

theorem witness_LinkSuspendAndResume : (linked .active .cHighSpeed).portOf? (0 : BitVec 8).toNat = some 0 ∧
    ((linked .active .cHighSpeed).link 0).state = .active ∧ ((linked .suspended .cHighSpeed).link 0).state = .suspended := by
  decide

theorem witness_LinkSetAddress : ((linked .active .cHighSpeed).link 0).state = .active ∧
    ((1 : PortId) ≠ 0 ∧ (1 : PortId).val < (cfg .host).numPhysPorts ∧
      (((linked .active .cHighSpeed).modLink 1 fun l => { l with dev := some 127 }).link 1).dev = some 127) ∧
    (¬ ∃ j : PortId, j ≠ 0 ∧ j.val < (linked .active .cHighSpeed).cfg.numPhysPorts ∧
      ((linked .active .cHighSpeed).link j).dev = some 127) := by decide

theorem witness_Detach : (linked .active .cHighSpeed).portOf? (0 : BitVec 3).toNat = some 0 ∧
    (linked .active .cHighSpeed).cfg.mode = .host ∧
    ((linked .active .cHighSpeed).link 0).state ≠ .detached ∧
    ((linked .active .cHighSpeed).link 0).state ≠ .attachDetecting ∧ ((quiet .host).link 0).state = .detached ∧
    ((linked .active .cHighSpeed).pipe 0).devaddr = some (((linked .active .cHighSpeed).link 0).dev.getD 0) := by decide

/-- The device at address 1 on port 0, active; pipe 1, bound to it, has a DMA write outstanding on `PORT_D0`. -/
def leaving : State :=
  (dma .out 9 2 1 4).modLink 0 fun l => { l with state := .active, conn := .cFullSpeed, dev := some 1, busActive := true }

/-- The clauses on channels and FIFO ports: `PORT_D0` and its channel are those of a busy released pipe, `PORT_C` and
`PORT_D1` are not; the clear is confirmed in time, or too late. -/
theorem witness_Detach_cutOff : leaving.cfg.mode = .host ∧ leaving.portOf? (0 : BitVec 3).toNat = some 0 ∧
    (leaving.link 0).state = .active ∧ (leaving.pipe 1).configured = true ∧
    (leaving.pipe 1).devaddr = some ((leaving.link 0).dev.getD 0) ∧ leaving.busy 1 = true ∧
    (leaving.chan .d0).bound = true ∧ (leaving.chan .d0).pipe = 1 ∧ (leaving.port .d0).owner = some 1 ∧
    (leaving.chan .d1).bound = false ∧ (leaving.port .c).owner ≠ some 1 ∧ (leaving.port .d1).owner ≠ some 1 ∧
    (drawClearPolls leaving).1 ≤ leaving.cfg.portClearMaxSpin ∧
    (slow leaving).cfg.portClearMaxSpin < (drawClearPolls (slow leaving)).1 := by decide

theorem witness_peripheral : (quiet .peripheral).cfg.mode = .peripheral ∧ dataStage.cfg.mode = .peripheral ∧
    0 < dataStage.cfg.numPipes := by decide

theorem witness_CtrlAck : (control .cSetupReceived 0 0).ctrl.state = .cSetupReceived ∧
    (control .cSetupReceived 0 0).ctrl.wlen = 0 ∧ (control .cSetupReceived 0 255).ctrl.wlen ≠ 0 := by decide

theorem witness_CtrlData : (control .cSetupReceived 0x80 2).ctrl.state = .cSetupReceived ∧
    (control .cSetupReceived 0x80 2).ctrl.wlen ≠ 0 ∧ ((control .cSetupReceived 0x80 2).pipe 0).configured = true ∧
    ((control .cSetupReceived 0x80 2).pipe 0).wedged = false ∧
    (((control .cSetupReceived 0x80 2).pipe 0).slot .tx).state = .idle ∧
    (drawClearPolls (control .cSetupReceived 0x80 2)).1 ≤ (control .cSetupReceived 0x80 2).cfg.portClearMaxSpin := by decide

theorem witness_StatusStageDone : (control .cStatusStage 0 0).ctrl.state = .cStatusStage ∧
    (control .cIdle 0 0).ctrl.state ≠ .cStatusStage := by decide

theorem witness_CtrlTransitions : exec (.hBrdy 0) dataStage = .next (nx (.hBrdy 0) dataStage) ∧
    (nx (.hBrdy 0) dataStage).ctrl.state ≠ dataStage.ctrl.state ∧
    exec .ctrlStall dataStage = .next (nx .ctrlStall dataStage) ∧
    (nx .ctrlStall dataStage).ctrl.state ≠ dataStage.ctrl.state :=
  ⟨exec_nx (by decide), by decide, exec_nx (by decide), by decide⟩

theorem witness_UsbIrq : ((armed .out 1).setSts (.brdy 1) true).irqAsserted = true ∧
    PipeInv ((armed .out 1).setSts (.brdy 1) true) ∧ CtrlInv ((armed .out 1).setSts (.brdy 1) true) := by
  refine ⟨by decide, ⟨by decide, by decide, by decide, by decide, by decide⟩, ⟨by decide, ?_⟩⟩
  intro x hx
  cases x <;> first | decide | (cases hx)

theorem witness_UsbIrq_link : LinkInv ((armed .out 1).setSts (.brdy 1) true) := by
  refine ⟨?_, ?_, ?_⟩
  · intro k
    fin_cases k <;> exact ⟨by decide, by decide, by decide, by decide, by decide, by decide, by decide, by decide, by decide⟩
  · intro _ k _
    unfold State.Gated
    fin_cases k <;> decide
  · intro x k _ h
    exact absurd ⟨rfl, k.isLt⟩ h

theorem witness_TransfersIgnoreLink : (Instr.write 1 16 3 7).hostOnly = false ∧ Instr.write 1 16 3 7 ≠ .usbIrq := by decide

/-- The enabling conditions of R231 to R235, each met and each missed. -/
theorem witness_HwPipeSteps : (armed .inn 3).pipeOf? (1 : BitVec 8).toNat = some 1 ∧
    (armed .inn 3).canReceive 1 2 = true ∧ (armed .inn 3).canReceive 1 3 = false ∧ (armed .out 3).canTransmit 1 = true ∧
    (idle .out).canTransmit 1 = false ∧ (armed .out 3).canRespond 1 = true ∧ (idle .out).canRespond 1 = false ∧
    ((quiet .host).pipe 1).configured = false := by decide

theorem witness_HwLinkAndCtrlSteps : (quiet .host).cfg.mode = .host ∧ (quiet .host).portOf? (1 : BitVec 8).toNat = some 1 ∧
    (quiet .peripheral).cfg.mode = .peripheral ∧ (control .cStatusStage 0 0).ctrl.statusEn = true ∧
    (control .cIdle 0 0).ctrl.statusEn = false := by decide

theorem witness_FifoAccesses : 1 ≤ wordBytesOf .two ∧ 1 ≤ wordBytesOf .four ∧ 0 < ([1, 2, 3] : List Byte).length / 2 ∧
    0 < ([1, 2, 3] : List Byte).length % 2 := by decide

end Sys2Proof.Tests
end

section
/-! SUPPORT. What one step is (R7), and what every operation leaves alone: a command stays on one pipe or one physical
port, and no other operation touches the configuration (R8), the inbox or the return status (log entries 1, 6). -/

namespace Sys2Proof.Machine

variable {s t u : State}

/-! ### One step -/

theorem step_of_inbox_nil (h : s.inbox = []) : step s = .next s := by
  simp [step, nextInput, h]

theorem step_of_inbox_cons {x : Input} {rest : List Input} (h : s.inbox = x :: rest) :
    step s = runInput x (s.setInbox rest) := by
  simp [step, nextInput, h]

theorem runInput_of_decode {x : Input} {i : Instr} (h : decode x = .instr i) : runInput x s = exec i s := by
  simp [runInput, h]

theorem step_withFetchWord (nbits w : Nat) : step (s.withFetchWord nbits w) = runInput (inputOfTableWord nbits w) s :=
  rfl

theorem decode_of_decodeTableWord {nbits w : Nat} {i : Instr} (h : decodeTableWord nbits w = some i) :
    decode (inputOfTableWord nbits w) = .instr i := by
  unfold decodeTableWord at h
  split at h <;> simp_all

/-! ### What holds of the next state, if there is one -/

/-- Whatever next state the outcome gives meets `P`. -/
def NextMeets (P : State → Prop) (o : Host.Outcome State Fault Refusal) : Prop := ∀ t, o = .next t → P t

section NextMeets

variable {P : State → Prop}

@[simp] theorem nextMeets_next : NextMeets P (.next t) ↔ P t := by simp [NextMeets]

@[simp] theorem nextMeets_fault (f : Fault) : NextMeets P (.fault f) := by simp [NextMeets]

@[simp] theorem nextMeets_refused (r : Refusal) : NextMeets P (.refused r) := by simp [NextMeets]

/-- An input runs its operation or returns a status. -/
theorem runInput_meets {x : Input} (hexec : ∀ i, NextMeets P (exec i s)) (hret : ∀ r, P (s.returns r)) :
    NextMeets P (runInput x s) := by
  unfold runInput
  split
  · exact hexec _
  · exact nextMeets_next.2 (hret _)
  · exact nextMeets_next.2 (hret _)
  · exact nextMeets_refused _

theorem linkCommand_meets {idx : BitVec 8} {f : PortId → State} (hret : ∀ r, P (s.returns r)) (h : ∀ k, P (f k)) :
    NextMeets P (linkCommand idx s f) := by
  unfold linkCommand
  split
  · exact nextMeets_next.2 (hret _)
  · split <;> simp [hret, h]

theorem ctrlCommand_meets (hret : P (s.returns .invalidState)) (h : P t) : NextMeets P (ctrlCommand s t) := by
  unfold ctrlCommand
  split <;> simp [hret, h]

theorem linkHandler_meets {k : BitVec 3} {f : PortId → State} (h : ∀ k, P (f k)) : NextMeets P (linkHandler k s f) := by
  unfold linkHandler
  split
  · simp
  · split <;> simp [h]

theorem ctrlHandler_meets (h : P t) : NextMeets P (ctrlHandler s t) := by
  unfold ctrlHandler
  split <;> simp [h]

theorem hwPipeStep_meets {idx : BitVec 8} {en : PipeId → Bool} {f : PipeId → State} (h : ∀ i, P (hwToggles (f i))) :
    NextMeets P (hwPipeStep idx s en f) := by
  unfold hwPipeStep
  split
  · simp
  · split <;> simp [h]

theorem hwLinkStep_meets {idx : BitVec 8} {f : PortId → State} (h : ∀ k, P (hwToggles (f k))) :
    NextMeets P (hwLinkStep idx s f) := by
  unfold hwLinkStep
  split
  · simp
  · split <;> simp [h]

end NextMeets

/-! ### Commands: one pipe or one physical port -/

/-- Everything outside the frame of one pipe, or outside that of one physical port, is as before. -/
def OneObject (s t : State) : Prop := (∃ i, OnlyPipe i s t) ∨ ∃ k, OnlyLink k s t

theorem OnlyPipe.oneObject {i : PipeId} (h : OnlyPipe i s t) : OneObject s t := .inl ⟨i, h⟩

theorem OnlyLink.oneObject {k : PortId} (h : OnlyLink k s t) : OneObject s t := .inr ⟨k, h⟩

theorem OneObject.cfg (h : OneObject s t) : t.cfg = s.cfg := by
  obtain ⟨_, h⟩ | ⟨_, h⟩ := h <;> exact h.cfg

theorem OneObject.inbox (h : OneObject s t) : t.inbox = s.inbox := by
  obtain ⟨_, h⟩ | ⟨_, h⟩ := h <;> exact h.inbox

theorem returns_oneObject (r : Status) : OneObject s (s.returns r) :=
  ((onlyPipe_returns (i := 0) r).2 (.refl 0 s)).oneObject

theorem execConfigurePipe_oneObject (idx : BitVec 8) (ty : TType) (d : UsbDir) (m : BitVec 11)
    (a : Option (BitVec 7)) : NextMeets (OneObject s) (execConfigurePipe idx ty d m a s) := by
  unfold execConfigurePipe
  split
  · simp [returns_oneObject]
  · next i _ =>
    have h : OnlyPipe i s (clearStatus i (disableSources i (s.modPipe i (Pipe.configure i ty d m.toNat a)))) := by
      simp [OnlyPipe.refl]
    split <;> [skip; split] <;> simp [returns_oneObject, ((onlyPipe_returns .ok).2 h).oneObject]

theorem execReleasePipe_oneObject (idx : BitVec 8) : NextMeets (OneObject s) (execReleasePipe idx s) := by
  unfold execReleasePipe
  split
  · simp [returns_oneObject]
  · next i _ => exact nextMeets_next.2 (OnlyPipe.oneObject (i := i) (by simp [OnlyPipe.refl]))

theorem execAcquirePort_oneObject (idx : BitVec 8) (f : FPort) :
    NextMeets (OneObject s) (execAcquirePort idx f s) := by
  unfold execAcquirePort
  split
  · simp [returns_oneObject]
  · next i _ =>
    have h : OnlyPipe i s (acquireResult i (acquirePort i f s)) := by simp [OnlyPipe.refl]
    split <;> [skip; split] <;> simp [returns_oneObject, h.oneObject]

theorem startCommon_oneObject (i : PipeId) (d : Dir) (b l c : Word) : OneObject s (startCommon i d b l c s) :=
  ((onlyPipe_startCommon d b l c).2 (.refl i s)).oneObject

theorem execRead_oneObject (idx : BitVec 8) (b l c : Word) : NextMeets (OneObject s) (execRead idx b l c s) := by
  unfold execRead
  split <;> simp [returns_oneObject, startCommon_oneObject]

theorem execWrite_oneObject (idx : BitVec 8) (b l c : Word) : NextMeets (OneObject s) (execWrite idx b l c s) := by
  unfold execWrite
  split <;> simp [returns_oneObject, startCommon_oneObject]

theorem execStop_oneObject (idx : BitVec 8) : NextMeets (OneObject s) (execStop idx s) := by
  unfold execStop
  split
  · simp [returns_oneObject]
  · next i _ => exact nextMeets_next.2 (OnlyPipe.oneObject (i := i) (by simp [OnlyPipe.refl]))

theorem execDmaStart_oneObject (idx : BitVec 8) (b l : Word) (f : FPort) (c : Word) :
    NextMeets (OneObject s) (execDmaStart idx b l f c s) := by
  unfold execDmaStart
  split
  · next i p _ _ =>
    have h : OnlyPipe i s (dmaStart i b l p c s) := by simp [OnlyPipe.refl]
    split <;> simp [returns_oneObject, h.oneObject]
  · simp [returns_oneObject]
  · simp [returns_oneObject]

@[simp] theorem onlyPipe_ctrlAck : OnlyPipe 0 s (ctrlAck t) ↔ OnlyPipe 0 s t := by
  unfold ctrlAck
  split <;> simp

@[simp] theorem onlyPipe_stallControl (r : Result) : OnlyPipe 0 s (stallControl r t) ↔ OnlyPipe 0 s t := by
  simp [stallControl]

@[simp] theorem onlyPipe_ctrlData (b l c : Word) : OnlyPipe 0 s (ctrlData b l c t) ↔ OnlyPipe 0 s t := by
  unfold ctrlData ctrlDataResult
  split <;> [skip; split] <;> simp

/-- A command stays on one pipe or on one physical port. -/
theorem exec_oneObject_of_cmd (i : Instr) (hf : i.format = .cmd) : NextMeets (OneObject s) (exec i s) := by
  cases i with
  | configurePipe idx ty d m a => exact execConfigurePipe_oneObject idx ty d m a
  | releasePipe idx => exact execReleasePipe_oneObject idx
  | acquirePort idx f => exact execAcquirePort_oneObject idx f
  | read idx b l c => exact execRead_oneObject idx b l c
  | write idx b l c => exact execWrite_oneObject idx b l c
  | stop idx => exact execStop_oneObject idx
  | dmaStart idx b l f c => exact execDmaStart_oneObject idx b l f c
  | linkAttachProcess idx =>
    exact linkCommand_meets returns_oneObject fun k => (onlyLink_linkAttachProcess.2 (.refl k s)).oneObject
  | linkBusReset idx =>
    exact linkCommand_meets returns_oneObject fun k => (onlyLink_linkBusReset.2 (.refl k s)).oneObject
  | linkSuspend idx =>
    exact linkCommand_meets returns_oneObject fun k => (onlyLink_linkSuspend.2 (.refl k s)).oneObject
  | linkResume idx =>
    exact linkCommand_meets returns_oneObject fun k => (onlyLink_linkResume.2 (.refl k s)).oneObject
  | linkSetAddress idx a =>
    exact linkCommand_meets returns_oneObject fun k => ((onlyLink_linkSetAddress a).2 (.refl k s)).oneObject
  | ctrlAck => exact ctrlCommand_meets (returns_oneObject _) (onlyPipe_ctrlAck.2 (.refl 0 s)).oneObject
  | ctrlStall =>
    exact ctrlCommand_meets (returns_oneObject _) (OnlyPipe.oneObject (i := 0) (by simp [OnlyPipe.refl]))
  | ctrlData b l c => exact ctrlCommand_meets (returns_oneObject _) ((onlyPipe_ctrlData b l c).2 (.refl 0 s)).oneObject
  | _ => cases hf

/-! ### The return status under the transfer operations -/

section Ret

variable {i : PipeId}

@[simp] theorem acquirePort_ret (f : FPort) : (acquirePort i f s).2.ret = s.ret := by
  by_cases h : s.CanAcquire i f
  · have ha : Acquired i f s (acquirePort i f s).2 := acquirePort_acquired f h
    unfold Acquired at ha
    split at ha
    · rw [ha]
    · exact ha.ret
  · exact congrArg (·.ret) (acquirePort_failed f h).2.rest

@[simp] theorem complete_ret (d : Dir) (r : Result) : (complete i d r s).ret = s.ret := by
  simp [complete_eq]

@[simp] theorem terminateAll_ret (r : Result) : (terminateAll i r s).ret = s.ret := by
  simp [terminateAll]

@[simp] theorem terminateIfBusy_ret (r : Result) : (terminateIfBusy i r s).ret = s.ret := by
  unfold terminateIfBusy
  split <;> simp

@[simp] theorem advanceSlot_ret (d : Dir) (n : Nat) : (advanceSlot i d n s).ret = s.ret := by
  simp [advanceSlot]

@[simp] theorem commit_ret (f : FPort) (b : Bool) : (commit f i b s).ret = s.ret := by
  simp [commit]

@[simp] theorem writeOwned_ret : (writeOwned i s).ret = s.ret := by
  simp only [writeOwned, fifoWrite, logFifo]
  split <;> [skip; split] <;> simp

@[simp] theorem writeChunk_ret : (writeChunk i s).ret = s.ret := by
  simp only [writeChunk]
  split <;> simp

@[simp] theorem readOwned_ret (pkt : List Byte) : (readOwned i pkt s).ret = s.ret := by
  simp only [readOwned, fifoRead, logFifo]
  split <;> [skip; split <;> [skip; split]] <;> simp

@[simp] theorem readChunk_ret : (readChunk i s).ret = s.ret := by
  simp only [readChunk]
  split <;> [skip; split] <;> simp

@[simp] theorem handleBrdy_ret : (handleBrdy i s).ret = s.ret := by
  simp only [handleBrdy]
  split <;> [skip; split] <;> simp

@[simp] theorem handleNrdy_ret : (handleNrdy i s).ret = s.ret := by
  simp only [handleNrdy, retryNotReady]
  repeat' split
  all_goals simp

@[simp] theorem pushFirst_ret (d : Dir) : (pushFirst i d s).ret = s.ret := by
  unfold pushFirst
  split <;> simp

@[simp] theorem dmaRemainder_ret (d : Dir) : (dmaRemainder i d s).ret = s.ret := by
  simp only [dmaRemainder]
  split <;> simp

@[simp] theorem dmaEnd_ret (p : DPort) (d : Dir) : (dmaEnd p i d s).ret = s.ret := by
  simp only [dmaEnd]
  split <;> [skip; split] <;> simp

@[simp] theorem dmaAccount_ret (p : DPort) : (dmaAccount p s).ret = s.ret := by
  simp [dmaAccount]

@[simp] theorem dmaComplete_ret (p : DPort) (c : Chan) : (dmaComplete p c s).ret = s.ret := by
  simp only [dmaComplete]
  split <;> [skip; split] <;> simp

@[simp] theorem releasePipe_ret : (releasePipe i s).ret = s.ret := by
  simp [releasePipe]

@[simp] theorem stallControl_ret (r : Result) : (stallControl r s).ret = s.ret := by
  simp [stallControl]

end Ret

/-! ### Every other operation: configuration, inbox and return status stay -/

/-- The configuration and the model's own fields for the caller and the schedule are as before. -/
structure SameOwn (s t : State) : Prop where
  cfg : t.cfg = s.cfg
  inbox : t.inbox = s.inbox
  ret : t.ret = s.ret

theorem SameOwn.refl (s : State) : SameOwn s s := ⟨rfl, rfl, rfl⟩

theorem SameOwn.trans (h : SameOwn s t) (g : SameOwn t u) : SameOwn s u :=
  ⟨g.cfg.trans h.cfg, g.inbox.trans h.inbox, g.ret.trans h.ret⟩

theorem OneObject.sameOwn (h : OneObject s t) (hr : t.ret = s.ret) : SameOwn s t := ⟨h.cfg, h.inbox, hr⟩

theorem foldl_sameOwn {α : Type} {f : State → α → State} (hf : ∀ s a, SameOwn s (f s a)) (l : List α) (s : State) :
    SameOwn s (l.foldl f s) := by
  induction l generalizing s with
  | nil => exact .refl s
  | cons a l ih => exact (hf s a).trans (ih (f s a))

theorem setSts_sameOwn (x : Source) (b : Bool) : SameOwn s (s.setSts x b) := by
  constructor <;> simp

theorem SameOwn.hwToggles (h : SameOwn s t) : SameOwn s (hwToggles t) :=
  ⟨hwToggles_cfg.trans h.cfg, hwToggles_inbox.trans h.inbox, hwToggles_ret.trans h.ret⟩

/-! ### The handlers and the dispatcher -/

theorem handleBrdy_sameOwn (i : PipeId) : SameOwn s (handleBrdy i s) :=
  (onlyPipe_handleBrdy.2 (.refl i s)).oneObject.sameOwn handleBrdy_ret

theorem handleNrdy_sameOwn (i : PipeId) : SameOwn s (handleNrdy i s) :=
  (onlyPipe_handleNrdy.2 (.refl i s)).oneObject.sameOwn handleNrdy_ret

theorem handleAttach_sameOwn (k : PortId) : SameOwn s (handleAttach k s) :=
  (onlyLink_handleAttach.2 (.refl k s)).oneObject.sameOwn (by unfold handleAttach; split <;> simp)

theorem handleLinechg_sameOwn (k : PortId) : SameOwn s (handleLinechg k s) :=
  (onlyLink_handleLinechg.2 (.refl k s)).oneObject.sameOwn (by unfold handleLinechg; split <;> simp)

theorem detachPipe_sameOwn (a : BitVec 7) (s : State) (i : PipeId) : SameOwn s (detachPipe a s i) := by
  have h : OnlyPipe i s (releasePipe i s) := onlyPipe_releasePipe.2 (.refl i s)
  unfold detachPipe
  split <;> [split; skip] <;> constructor <;> simp [h.cfg, h.inbox]

theorem handleDetach_sameOwn (k : PortId) : SameOwn s (handleDetach k s) := by
  unfold handleDetach
  split
  · exact .refl s
  · exact (foldl_sameOwn (detachPipe_sameOwn ((s.link k).dev.getD 0)) allPipes s).trans (by constructor <;> simp)

theorem handleSetup_sameOwn : SameOwn s (handleSetup s) := by
  have h : OnlyPipe 0 s (terminateIfBusy 0 .stopped s) := (onlyPipe_terminateIfBusy _).2 (.refl 0 s)
  constructor <;> simp [handleSetup, h.cfg, h.inbox]

theorem handleStsdone_sameOwn : SameOwn s (handleStsdone s) := by
  unfold handleStsdone
  split <;> constructor <;> simp

theorem handleSeqerr_sameOwn : SameOwn s (handleSeqerr s) :=
  ((onlyPipe_stallControl .stall).2 (.refl 0 s)).oneObject.sameOwn (stallControl_ret .stall)

theorem handler_sameOwn (x : Source) : SameOwn s (handler x s) := by
  cases x with
  | brdy i => exact handleBrdy_sameOwn i
  | bemp i => exact .refl s
  | nrdy i => exact handleNrdy_sameOwn i
  | attach k => exact handleAttach_sameOwn k
  | detach k => exact handleDetach_sameOwn k
  | linechg k => exact handleLinechg_sameOwn k
  | setup => exact handleSetup_sameOwn
  | stsdone => exact handleStsdone_sameOwn
  | seqerr => exact handleSeqerr_sameOwn

theorem deliver_sameOwn (s : State) (x : Source) : SameOwn s (deliver s x) := by
  unfold deliver
  split
  · exact (setSts_sameOwn x false).trans (handler_sameOwn x)
  · exact (handler_sameOwn x).trans (setSts_sameOwn x false)

theorem dispatch_sameOwn : SameOwn s (dispatch s) :=
  foldl_sameOwn (fun s _ => foldl_sameOwn deliver_sameOwn _ s) allRegs s

theorem execUsbIrq_sameOwn : NextMeets (SameOwn s) (execUsbIrq s) := by
  unfold execUsbIrq
  split <;> simp [dispatch_sameOwn]

/-! ### The pipe handlers as operations -/

theorem execHBrdy_sameOwn (p : BitVec 5) : NextMeets (SameOwn s) (execHBrdy p s) := by
  unfold execHBrdy
  split <;> simp [handleBrdy_sameOwn]

theorem execHBemp_sameOwn (p : BitVec 5) : NextMeets (SameOwn s) (execHBemp p s) := by
  unfold execHBemp
  split <;> simp [handleBemp, SameOwn.refl]

theorem execHNrdy_sameOwn (p : BitVec 5) : NextMeets (SameOwn s) (execHNrdy p s) := by
  unfold execHNrdy
  split <;> simp [handleNrdy_sameOwn]

/-! ### The DMA engine's interrupt and step -/

theorem dmaComplete_sameOwn (p : DPort) (c : Chan) (hc : (s.chan p).pipe = c.pipe) : SameOwn s (dmaComplete p c s) :=
  ((onlyPipe_dmaComplete p c hc).2 (.refl c.pipe s)).oneObject.sameOwn (dmaComplete_ret p c)

theorem dmaIrq_sameOwn (p : DPort) : NextMeets (SameOwn s) (dmaIrq p s) := by
  have hdone : SameOwn s (s.modChan p fun x => { x with done := false }) := by constructor <;> simp
  simp only [dmaIrq]
  split
  · exact nextMeets_next.2 hdone
  · split
    · exact nextMeets_fault _
    · exact nextMeets_next.2 (hdone.trans (dmaComplete_sameOwn p (s.chan p) (by simp)))

theorem execDmaIrq_sameOwn (f : FPort) : NextMeets (SameOwn s) (execDmaIrq f s) := by
  unfold execDmaIrq
  split
  · simp
  · split <;> [skip; split] <;> simp [dmaIrq_sameOwn]

theorem moveBlock_sameOwn (p : DPort) : SameOwn s (moveBlock p s) := by
  simp only [moveBlock]
  split <;> constructor <;> simp

theorem execDmaBlock_sameOwn (f : FPort) : NextMeets (SameOwn s) (execDmaBlock f s) := by
  unfold execDmaBlock
  split
  · simp
  · split <;> [skip; split] <;> simp [moveBlock_sameOwn]

/-! ### The `Hw` steps -/

theorem execHwRxPacket_sameOwn (idx : BitVec 8) (bs : List Byte) :
    NextMeets (SameOwn s) (execHwRxPacket idx bs s) := by
  unfold execHwRxPacket
  split
  · exact nextMeets_refused _
  · exact hwPipeStep_meets fun i => .hwToggles (by constructor <;> simp)

theorem execHwStall_sameOwn (idx : BitVec 8) : NextMeets (SameOwn s) (execHwStall idx s) :=
  hwPipeStep_meets fun i => .hwToggles (by constructor <;> simp)

theorem execHwSetup_sameOwn (bs : List Byte) : NextMeets (SameOwn s) (execHwSetup bs s) := by
  unfold execHwSetup
  split
  · exact nextMeets_refused _
  · split
    · exact nextMeets_refused _
    · exact nextMeets_next.2 (.hwToggles (by constructor <;> simp))

theorem execHwStatusDone_sameOwn : NextMeets (SameOwn s) (execHwStatusDone s) := by
  unfold execHwStatusDone
  split <;> [skip; split] <;> simp [(setSts_sameOwn _ _).hwToggles]

theorem execHwSeqErr_sameOwn : NextMeets (SameOwn s) (execHwSeqErr s) := by
  unfold execHwSeqErr
  split <;> simp [(setSts_sameOwn _ _).hwToggles]

theorem exec_sameOwn_of_not_cmd (i : Instr) (hf : i.format ≠ .cmd) : NextMeets (SameOwn s) (exec i s) := by
  cases i with
  | usbIrq => exact execUsbIrq_sameOwn
  | dmaIrq f => exact execDmaIrq_sameOwn f
  | hwRxPacket idx bs => exact execHwRxPacket_sameOwn idx bs
  | hwTxReady idx => exact hwPipeStep_meets fun i => (setSts_sameOwn (.brdy i) true).hwToggles
  | hwNotReady idx => exact hwPipeStep_meets fun i => (setSts_sameOwn (.nrdy i) true).hwToggles
  | hwStall idx => exact execHwStall_sameOwn idx
  | hwBufEmpty idx => exact hwPipeStep_meets fun i => (setSts_sameOwn (.bemp i) true).hwToggles
  | hwAttach idx => exact hwLinkStep_meets fun k => (setSts_sameOwn (.attach k) true).hwToggles
  | hwDetach idx => exact hwLinkStep_meets fun k => (setSts_sameOwn (.detach k) true).hwToggles
  | hwLinechg idx => exact hwLinkStep_meets fun k => (setSts_sameOwn (.linechg k) true).hwToggles
  | hwSetup bs => exact execHwSetup_sameOwn bs
  | hwStatusDone => exact execHwStatusDone_sameOwn
  | hwSeqErr => exact execHwSeqErr_sameOwn
  | dmaBlock f => exact execDmaBlock_sameOwn f
  | hBrdy p => exact execHBrdy_sameOwn p
  | hBemp p => exact execHBemp_sameOwn p
  | hNrdy p => exact execHNrdy_sameOwn p
  | hAttach k => exact linkHandler_meets handleAttach_sameOwn
  | hDetach k => exact linkHandler_meets handleDetach_sameOwn
  | hLinechg k => exact linkHandler_meets handleLinechg_sameOwn
  | hSetup => exact ctrlHandler_meets handleSetup_sameOwn
  | hStsdone => exact ctrlHandler_meets handleStsdone_sameOwn
  | hSeqerr => exact ctrlHandler_meets handleSeqerr_sameOwn
  | _ => exact absurd rfl hf

/-! ### Every operation and every step -/

theorem exec_cfg (i : Instr) (h : exec i s = .next t) : t.cfg = s.cfg := by
  by_cases hf : i.format = .cmd
  · exact (exec_oneObject_of_cmd i hf t h).cfg
  · exact (exec_sameOwn_of_not_cmd i hf t h).cfg

theorem exec_inbox (i : Instr) (h : exec i s = .next t) : t.inbox = s.inbox := by
  by_cases hf : i.format = .cmd
  · exact (exec_oneObject_of_cmd i hf t h).inbox
  · exact (exec_sameOwn_of_not_cmd i hf t h).inbox

theorem runInput_cfg (x : Input) (h : runInput x s = .next t) : t.cfg = s.cfg :=
  runInput_meets (P := fun t => t.cfg = s.cfg) (fun i _ => exec_cfg i) (fun _ => rfl) t h

theorem runInput_inbox (x : Input) (h : runInput x s = .next t) : t.inbox = s.inbox :=
  runInput_meets (P := fun t => t.inbox = s.inbox) (fun i _ => exec_inbox i) (fun _ => rfl) t h

theorem step_cfg (h : step s = .next t) : t.cfg = s.cfg := by
  cases hs : s.inbox with
  | nil =>
    rw [step_of_inbox_nil hs] at h
    cases h; rfl
  | cons x rest =>
    rw [step_of_inbox_cons hs] at h
    exact (runInput_cfg x h).trans (setInbox_cfg s rest)

theorem step_inbox (h : step s = .next t) : t.inbox = s.inbox.tail := by
  cases hs : s.inbox with
  | nil =>
    rw [step_of_inbox_nil hs] at h
    cases h; exact hs
  | cons x rest =>
    rw [step_of_inbox_cons hs] at h
    exact (runInput_inbox x h).trans (setInbox_inbox s rest)

/-! ### The statements -/

/-- Settles O7: a command stays on one pipe or port and every other operation keeps the configuration; a step runs one
operation or returns a status. -/
theorem configurationNeverChanges : Obligations.ConfigurationNeverChanges :=
  ⟨fun i _ _ => exec_cfg i, fun _ _ => step_cfg⟩

/-- Settles O9, by the same frames, which hold the inbox too, and the return status for all but commands. -/
theorem ownFields : Obligations.OwnFields :=
  ⟨fun i _ t h => ⟨exec_inbox i h, fun hf => (exec_sameOwn_of_not_cmd i hf t h).ret⟩, fun _ _ => step_inbox⟩

/-- Settles O6: a step is the oldest input's run, and a decoded input runs its operation. -/
theorem stepRunsDecodedInstruction : Obligations.StepRunsDecodedInstruction := by
  refine ⟨fun s x rest i hs hx => ?_, fun s => step_of_inbox_nil, fun s nbits w i hw => ?_⟩
  · rw [step_of_inbox_cons hs, runInput_of_decode hx]
  · rw [step_withFetchWord, runInput_of_decode (decode_of_decodeTableWord hw)]

end Sys2Proof.Machine
end

section
/-! SUPPORT. What one operation can do to the ports, the channels, the control record, the event registers and the
`configured` bits, said once: `During i s t` builds the states operation `i` passes through by the few updates of those
fields the rules contain. Every invariant over them is an induction on it (R25, R33, R34, R38, R39). -/

namespace Sys2Proof.Machine

variable {s t u : State}

/-! ### The updates -/

/-- Nothing the invariants of ports, channels, control record, event registers and `configured` bits speak of changes. -/
structure Quiet (s t : State) : Prop where
  cfg : t.cfg = s.cfg
  configured : ∀ j, (t.pipe j).configured = (s.pipe j).configured
  port : ∀ p, t.port p = s.port p
  chan : ∀ p, t.chan p = s.chan p
  ctrl : t.ctrl = s.ctrl
  sts : ∀ x, t.sts x = s.sts x
  enb : ∀ x, t.enb x = s.enb x

/-- The clause of `CtrlInv` about one control record (R38). -/
def Ctrl.Good (c : Ctrl) : Prop := c.statusEn = true ↔ c.state = .cStatusStage

/-- The clauses of `ChanInv` about one channel (R34, R35, R242). -/
structure Chan.Good (c : Chan) : Prop where
  unbound : c.bound = false → c.armed = false ∧ c.done = false
  whole : c.bound = true → c.dirn = .tx → c.lastLen = c.blockSize
  ended : c.bound = true → c.dirn = .tx → c.done = true → c.crb = 0

/-- Operation `i` is `CONFIGURE_PIPE` of pipe `j` (R25). -/
def Configures (i : Instr) (j : PipeId) : Prop :=
  ∃ idx ty d m a, i = .configurePipe idx ty d m a ∧ idx.toNat = j.val

/-- Operation `i` is `RELEASE_PIPE` of pipe `j`, or runs the detach handler (R25). -/
def Releases (i : Instr) (j : PipeId) : Prop :=
  (∃ idx, i = .releasePipe idx ∧ idx.toNat = j.val) ∨ (∃ k, i = .hDetach k) ∨ i = .usbIrq

/-- The states operation `i` passes through from `s`. -/
inductive During (i : Instr) (s : State) : State → Prop
  | start : During i s s
  | quiet {t u : State} (h : During i s t) (hq : Quiet t u) : During i s u
  | setEnb {t : State} (h : During i s t) (x : Source) (b : Bool) (hx : x.reg ≠ .ctrl) : During i s (t.setEnb x b)
  | clearSts {t : State} (h : During i s t) (x : Source) (hx : x.pipe? ≠ none ∨ (i = .usbIrq ∧ s.enb x = true)) :
      During i s (t.setSts x false)
  | setSts {t : State} (h : During i s t) (x : Source) (hi : i.format = .env) : During i s (t.setSts x true)
  | modCtrl {t : State} (h : During i s t) (f : Ctrl → Ctrl) (hf : t.ctrl.Good → (f t.ctrl).Good) :
      During i s (t.modCtrl f)
  | emptyStage {t : State} (h : During i s t) (p : FPort) : During i s (t.modPort p fun q => { q with stage := [] })
  | freePort {t : State} (h : During i s t) (p : FPort) :
      During i s (t.modPort p fun q => { q with owner := none, stage := [] })
  | bindPort {t : State} (h : During i s t) (p : FPort) (j : PipeId) (hp : ∀ q, q ≠ p → (t.port q).owner ≠ some j) :
      During i s (t.modPort p fun q => { q with owner := some j })
  | dreqOff {t : State} (h : During i s t) (p : DPort) :
      During i s (t.modPort p.fport fun q => { q with dreq := false })
  | dreqOn {t : State} (h : During i s t) (p : DPort) (hb : (t.chan p).bound = true) :
      During i s (t.modPort p.fport fun q => { q with dreq := true })
  | modChan {t : State} (h : During i s t) (p : DPort) (f : Chan → Chan)
      (hb : (t.chan p).bound = true → (f (t.chan p)).bound = true ∨ (t.port p.fport).dreq = false)
      (hg : (t.chan p).Good → (f (t.chan p)).Good) : During i s (t.modChan p f)
  | configure {t : State} (h : During i s t) (j : PipeId) (ty : TType) (d : UsbDir) (m : Nat) (a : Option (BitVec 7))
      (hi : Configures i j) : During i s (t.modPipe j (Pipe.configure j ty d m a))
  | release {t : State} (h : During i s t) (j : PipeId) (hi : Releases i j) :
      During i s (t.modPipe j (Pipe.release j))

section Primitives

variable {i : Instr}

@[simp] theorem setSlot_configured (q : Pipe) (d : Dir) (x : Slot) : (q.setSlot d x).configured = q.configured := by
  cases d <;> rfl

protected theorem During.modPipe (h : During i s t) (j : PipeId) (f : Pipe → Pipe)
    (hf : ∀ q, (f q).configured = q.configured := by simp) : During i s (t.modPipe j f) :=
  h.quiet ⟨rfl, fun k => by rw [modPipe_pipe]; split <;> simp_all, fun _ => rfl, fun _ => rfl, rfl, fun _ => rfl,
    fun _ => rfl⟩

protected theorem During.modLink (h : During i s t) (k : PortId) (f : Link → Link) : During i s (t.modLink k f) :=
  h.quiet (by constructor <;> simp)

protected theorem During.setMem (h : During i s t) (m : Memory) : During i s (t.setMem m) :=
  h.quiet (by constructor <;> simp)

protected theorem During.addTx (h : During i s t) (l : List TxEntry) : During i s (t.addTx l) :=
  h.quiet (by constructor <;> simp)

protected theorem During.logFifo (h : During i s t) (p : FPort) (rw : Rw) (bs : List Byte) :
    During i s (logFifo p rw bs t) :=
  h.quiet (by constructor <;> simp [logFifo])

protected theorem During.notify (h : During i s t) (e : Event) (k : PortId) (v : Speed) :
    During i s (notify e k v t) :=
  h.quiet (by constructor <;> simp)

protected theorem During.delay (h : During i s t) (n : Nat) : During i s (delay n t) :=
  h.quiet (by constructor <;> simp)

protected theorem During.addCb (h : During i s t) (e : CbEntry) : During i s (t.addCb e) :=
  h.quiet (by constructor <;> simp)

protected theorem During.addSetup (h : During i s t) (v : Vector Byte 8) : During i s (t.addSetup v) :=
  h.quiet (by constructor <;> simp)

protected theorem During.returns (h : During i s t) (r : Status) : During i s (t.returns r) :=
  h.quiet (by constructor <;> simp)

protected theorem During.drawClearPolls (h : During i s t) : During i s (drawClearPolls t).2 :=
  h.quiet (by constructor <;> simp)

protected theorem During.drawRxBlock (h : During i s t) (b : Nat) : During i s (drawRxBlock b t).2 :=
  h.quiet (by constructor <;> simp)

protected theorem During.hwToggles (h : During i s t) : During i s (hwToggles t) :=
  h.quiet (by constructor <;> simp [hwToggles_pipe, apply_ite Pipe.configured])

end Primitives

/-! ### The shared operations -/

section Shared

variable {i : Instr}

protected theorem During.disableSources (h : During i s t) (j : PipeId) : During i s (disableSources j t) :=
  ((h.setEnb (.brdy j) false nofun).setEnb (.nrdy j) false nofun).setEnb (.bemp j) false nofun

protected theorem During.clearStatus (h : During i s t) (j : PipeId) : During i s (clearStatus j t) :=
  ((h.clearSts (.brdy j) (.inl nofun)).clearSts (.nrdy j) (.inl nofun)).clearSts (.bemp j) (.inl nofun)

protected theorem During.restoreSources (h : During i s t) (j : PipeId) (b n e : Bool) :
    During i s (restoreSources j b n e t) :=
  ((h.setEnb (.brdy j) b nofun).setEnb (.nrdy j) n nofun).setEnb (.bemp j) e nofun

protected theorem During.gate (h : During i s t) (k : PortId) : During i s (gate k t) :=
  ((h.setEnb (.attach k) _ nofun).setEnb (.detach k) _ nofun).setEnb (.linechg k) _ nofun

protected theorem During.enterLink (h : During i s t) (k : PortId) (x : LinkState) : During i s (enterLink k x t) :=
  (h.modLink k _).gate k

protected theorem During.clearPort (h : During i s t) (p : FPort) : During i s (clearPort p t).2 := by
  simp only [clearPort]
  split
  · exact h.drawClearPolls
  · exact h.drawClearPolls.freePort p

protected theorem During.dropPort (h : During i s t) (j : PipeId) (p q : FPort) : During i s (dropPort j p q t) := by
  unfold dropPort
  split
  · exact h.freePort q
  · exact h

protected theorem During.dropOthers (h : During i s t) (j : PipeId) (p : FPort) : During i s (dropOthers j p t) :=
  ((h.dropPort j p .c).dropPort j p .d0).dropPort j p .d1

/-- After the loop of R104 pipe `j` owns no port other than `p`. -/
theorem dropOthers_owner_ne (j : PipeId) (p q : FPort) (hq : q ≠ p) :
    ((dropOthers j p s).port q).owner ≠ some j := by
  have hdrop (x : Port) : (x.drop j).owner ≠ some j := by unfold Port.drop; split <;> simp_all
  cases p <;> cases q <;> simp_all [dropOthers, dropPort_eq]

theorem clearPort_port_ne (p q : FPort) (hq : q ≠ p) : ((clearPort p s).2.port q) = s.port q := by
  simp only [clearPort]
  split <;> simp [hq.symm]

protected theorem During.bindOrWedge (h : During i s t) (j : PipeId) (p : FPort)
    (hp : ∀ q, q ≠ p → (t.port q).owner ≠ some j) : During i s (bindOrWedge j p t).2 := by
  simp only [bindOrWedge]
  split
  · exact (h.clearPort p).bindPort p j fun q hq => by rw [clearPort_port_ne p q hq]; exact hp q hq
  · exact (h.clearPort p).modPipe j _

protected theorem During.acquirePort (h : During i s t) (j : PipeId) (p : FPort) :
    During i s (acquirePort j p t).2 := by
  simp only [acquirePort]
  split
  · exact h
  · exact (((h.disableSources j).dropOthers j p).bindOrWedge j p (dropOthers_owner_ne j p)).restoreSources j _ _ _

protected theorem During.ctrlDataDone (h : During i s t) (r : Result) : During i s (ctrlDataDone r t) := by
  unfold ctrlDataDone
  split
  · exact h
  · split
    · exact (h.modPipe 0 _).modCtrl _ fun _ => by simp [Ctrl.Good]
    · exact (h.modPipe 0 _).modCtrl _ fun _ => by simp [Ctrl.Good]

protected theorem During.finish (h : During i s t) (j : PipeId) (d : Dir) (r : Result) :
    During i s (finish j d r t) := by
  simp only [finish, callback]
  split
  · exact ((h.modPipe j _).addCb _).ctrlDataDone r
  · exact (h.modPipe j _).addCb _

protected theorem During.complete (h : During i s t) (j : PipeId) (d : Dir) (r : Result) :
    During i s (complete j d r t) := by
  rw [complete_eq]
  refine During.finish ?_ j d r
  unfold beforeFinish
  split
  · exact h.modPipe j _
  · exact (h.disableSources j).modPipe j _

theorem modChan_modPort (p : DPort) (q : FPort) (f : Chan → Chan) (g : Port → Port) :
    (s.modChan p f).modPort q g = (s.modPort q g).modChan p f := by
  cases p <;> cases q <;> rfl

/-- A channel is unbound and its DMA request turned off (R130, R155). -/
protected theorem During.unbind (h : During i s t) (p : DPort) (f : Chan → Chan)
    (hu : (f (t.chan p)).bound = false ∧ (f (t.chan p)).armed = false ∧ (f (t.chan p)).done = false) :
    During i s ((t.modChan p f).modPort p.fport fun q => { q with dreq := false }) := by
  rw [modChan_modPort]
  obtain ⟨hb, ha, hd⟩ := hu
  refine (h.dreqOff p).modChan p f (fun _ => .inr (by simp)) fun _ => ?_
  rw [modPort_chan]
  exact ⟨fun _ => ⟨ha, hd⟩, by simp [hb], by simp [hb]⟩

protected theorem During.dropChan (h : During i s t) (j : PipeId) (p : DPort) : During i s (dropChan j p t) := by
  unfold dropChan
  split
  · exact h.unbind p _ ⟨rfl, rfl, rfl⟩
  · exact h

protected theorem During.clearOwned (h : During i s t) (j : PipeId) (p : FPort) : During i s (clearOwned j p t) := by
  simp only [clearOwned]
  split
  · split
    · exact h.clearPort p
    · exact (h.clearPort p).modPipe j _
  · exact h

protected theorem During.quiesce (h : During i s t) (j : PipeId) : During i s (quiesce j t) := by
  have h1 := ((h.disableSources j).clearStatus j).modPipe j fun q => { q with trncnt := 0, ignoreCnt := 0 }
  have h2 := (h1.dropChan j .d0).dropChan j .d1
  exact (((h2.clearOwned j .c).clearOwned j .d0).clearOwned j .d1).modPipe j fun q => { q with rxFifo := none, pid := .nak }

protected theorem During.finishIfBusy (h : During i s t) (j : PipeId) (d : Dir) (r : Result) :
    During i s (finishIfBusy j d r t) := by
  unfold finishIfBusy
  split
  · exact h.finish j d r
  · exact h

protected theorem During.terminateAll (h : During i s t) (j : PipeId) (r : Result) :
    During i s (terminateAll j r t) :=
  ((h.quiesce j).finishIfBusy j _ r).finishIfBusy j _ r

protected theorem During.terminateIfBusy (h : During i s t) (j : PipeId) (r : Result) :
    During i s (terminateIfBusy j r t) := by
  unfold terminateIfBusy
  split
  · exact h.terminateAll j r
  · exact h

protected theorem During.releasePipe (h : During i s t) (j : PipeId) (hi : Releases i j) :
    During i s (releasePipe j t) :=
  (((h.terminateIfBusy j .stopped).disableSources j).clearStatus j).release j hi

end Shared

/-! ### The CPU path -/

section Cpu

variable {i : Instr}

protected theorem During.advanceSlot (h : During i s t) (j : PipeId) (d : Dir) (n : Nat) :
    During i s (advanceSlot j d n t) :=
  h.modPipe j _

protected theorem During.commit (h : During i s t) (p : FPort) (j : PipeId) (b : Bool) : During i s (commit p j b t) :=
  (h.addTx _).emptyStage p

/-- What a chunk stages, its commit sends (R66, R68): nothing stays staged. -/
protected theorem During.commitChunk (h : During i s t) (j : PipeId) (n : Nat) (bs : List Byte) (b : Bool) :
    During i s (commit .c j b (advanceSlot j .tx n (fifoWrite .c bs t))) :=
  ((h.advanceSlot j .tx n).emptyStage .c).quiet (by
    constructor <;> simp +contextual [commit, advanceSlot, fifoWrite, logFifo])

protected theorem During.writeOwned (h : During i s t) (j : PipeId) : During i s (writeOwned j t) := by
  simp only [writeOwned]
  split
  · exact h.commitChunk j _ _ false
  · split
    · exact ((h.commitChunk j _ _ false).commit .c j true).complete j .tx .exact
    · exact (h.commitChunk j _ _ true).complete j .tx .exact

protected theorem During.writeChunk (h : During i s t) (j : PipeId) : During i s (writeChunk j t) := by
  simp only [writeChunk]
  split
  · exact (h.acquirePort j .c).writeOwned j
  · exact (h.acquirePort j .c).terminateAll j .portWedged

protected theorem During.fifoRead (h : During i s t) (p : FPort) (j : PipeId) (n : Nat) :
    During i s (fifoRead p j n t).2 :=
  (h.logFifo p .r _).modPipe j fun q => { q with rxFifo := none }

protected theorem During.readOwned (h : During i s t) (j : PipeId) (pkt : List Byte) :
    During i s (readOwned j pkt t) := by
  have hread (n : Nat) (m : Memory) : During i s (advanceSlot j .rx n ((fifoRead .c j n t).2.setMem m)) :=
    ((h.fifoRead .c j n).setMem m).advanceSlot j .rx n
  simp only [readOwned]
  split
  · exact (hread _ _).complete j .rx .overrun
  · split
    · exact (hread _ _).complete j .rx .exact
    · split
      · exact (hread _ _).complete j .rx .shortPacket
      · exact hread _ _

protected theorem During.readChunk (h : During i s t) (j : PipeId) : During i s (readChunk j t) := by
  simp only [readChunk]
  split
  · exact h
  · split
    · exact (h.acquirePort j .c).readOwned j _
    · exact (h.acquirePort j .c).terminateAll j .portWedged

protected theorem During.armCpu (h : During i s t) (j : PipeId) (d : Dir) (b l c : Word) :
    During i s (armCpu j d b l c t) :=
  (((h.modPipe j _ (by simp [Pipe.arm])).clearStatus j).setEnb (.brdy j) true nofun).setEnb (.nrdy j) true nofun

protected theorem During.pushFirst (h : During i s t) (j : PipeId) (d : Dir) : During i s (pushFirst j d t) := by
  unfold pushFirst
  split
  · exact h.writeChunk j
  · exact h

protected theorem During.startCommon (h : During i s t) (j : PipeId) (d : Dir) (b l c : Word) :
    During i s (startCommon j d b l c t) := by
  simp only [startCommon]
  iterate 5 (split <;> [exact h.returns _; skip])
  split
  · exact (((h.acquirePort j .c).armCpu j d b l c).pushFirst j d).returns .ok
  · exact ((h.acquirePort j .c).terminateIfBusy j .portWedged).returns .portWedgedNow

protected theorem During.handleBrdy (h : During i s t) (j : PipeId) : During i s (handleBrdy j t) := by
  simp only [handleBrdy]
  split
  · exact h
  · split
    · exact (h.modPipe j _).writeChunk j
    · exact (h.modPipe j _).readChunk j

protected theorem During.retryNotReady (h : During i s t) (j : PipeId) : During i s (retryNotReady j t) :=
  (h.delay _).modPipe j _

protected theorem During.handleNrdy (h : During i s t) (j : PipeId) : During i s (handleNrdy j t) := by
  simp only [handleNrdy]
  split
  · exact h
  · split
    · exact h.terminateAll j .stall
    · split
      · exact h.terminateAll j .notReadyExceeded
      · split
        · exact (h.modPipe j _).terminateAll j .notReadyExceeded
        · exact (h.modPipe j _).retryNotReady j

end Cpu

/-! ### The DMA path -/

section Dma

variable {i : Instr}

theorem dmaChan_good (j : PipeId) (d : Dir) (buf : Word) (len b : Nat) (ws : List Nat) :
    (dmaChan j d buf len b ws).Good :=
  ⟨nofun, fun _ _ => rfl, nofun⟩

protected theorem During.bindChan (h : During i s t) (p : DPort) (j : PipeId) (d : Dir) (buf : Word) (len b : Nat)
    (ws : List Nat) : During i s (t.modChan p fun _ => dmaChan j d buf len b ws) :=
  h.modChan p _ (fun _ => .inl rfl) fun _ => dmaChan_good j d buf len b ws

protected theorem During.armDma (h : During i s t) (j : PipeId) (d : Dir) (b l c : Word) (p : DPort) :
    During i s (armDma j d b l c p t) := by
  have h1 := (h.modPipe j (Pipe.armDma d b l c p) (by simp [Pipe.armDma])).clearStatus j
  exact ((h1.bindChan p j d b l.toNat _ _).setEnb (.nrdy j) true nofun).dreqOn p (by simp [dmaChan])

protected theorem During.dmaStart (h : During i s t) (j : PipeId) (b l : Word) (p : DPort) (c : Word) :
    During i s (dmaStart j b l p c t) := by
  simp only [dmaStart]
  iterate 4 (split <;> [exact h.returns _; skip])
  split
  · exact h.startCommon j _ b l c
  · split
    · exact h.returns .busy
    · split
      · exact ((h.acquirePort j p.fport).armDma j _ b l c p).returns .ok
      · exact (h.acquirePort j p.fport).returns .portWedgedNow

protected theorem During.dmaAccount (h : During i s t) (p : DPort) (hd : (t.chan p).done = false) :
    During i s (dmaAccount p t) :=
  (h.advanceSlot _ _ _).unbind p (fun x => { x with armed := false, bound := false }) ⟨rfl, rfl, hd⟩

protected theorem During.dmaRemainder (h : During i s t) (j : PipeId) (d : Dir) :
    During i s (dmaRemainder j d t) := by
  simp only [dmaRemainder]
  split
  · exact (((h.acquirePort j .c).modPipe j _).setEnb (.brdy j) true nofun).pushFirst j d
  · exact (h.acquirePort j .c).terminateAll j .portWedged

protected theorem During.dmaEnd (h : During i s t) (p : DPort) (j : PipeId) (d : Dir) :
    During i s (dmaEnd p j d t) := by
  cases d with
  | rx => exact h.complete j .rx .exact
  | tx =>
    simp only [dmaEnd]
    split
    · exact ((h.acquirePort j p.fport).commit p.fport j true).complete j .tx .exact
    · exact (h.acquirePort j p.fport).terminateAll j .portWedged

protected theorem During.dmaComplete (h : During i s t) (p : DPort) (c : Chan) (hd : (t.chan p).done = false) :
    During i s (dmaComplete p c t) := by
  simp only [dmaComplete]
  split
  · exact (h.dmaAccount p hd).complete c.pipe .rx .shortPacket
  · split
    · exact (h.dmaAccount p hd).dmaRemainder c.pipe c.dirn
    · exact (h.dmaAccount p hd).dmaEnd p c.pipe c.dirn

/-- The DMA-complete interrupt of `p` is taken (R155). -/
protected theorem During.takeDone (h : During i s t) (p : DPort) :
    During i s (t.modChan p fun x => { x with done := false }) :=
  h.modChan p _ .inl fun hg => ⟨fun hn => ⟨(hg.unbound hn).1, rfl⟩, hg.whole, nofun⟩

theorem dmaIrq_during (p : DPort) : NextMeets (During i s) (dmaIrq p s) := by
  simp only [dmaIrq]
  split
  · exact nextMeets_next.2 (During.start.takeDone p)
  · split
    · exact nextMeets_fault _
    · exact nextMeets_next.2 ((During.start.takeDone p).dmaComplete p _ (by simp))

theorem execDmaIrq_during (f : FPort) : NextMeets (During i s) (execDmaIrq f s) := by
  unfold execDmaIrq
  split
  · exact nextMeets_refused _
  · split <;> [skip; split] <;> simp [dmaIrq_during]

end Dma

/-! ### The host link -/

section HostLink

variable {i : Instr}

protected theorem During.handleAttach (h : During i s t) (k : PortId) : During i s (handleAttach k t) := by
  unfold handleAttach
  split
  · exact h
  · exact h.enterLink k _

protected theorem During.handleLinechg (h : During i s t) (k : PortId) : During i s (handleLinechg k t) := by
  unfold handleLinechg
  split
  · exact h.modLink k _
  · exact h

protected theorem During.foldl {α : Type} {f : State → α → State} {l : List α}
    (hf : ∀ u, During i s u → ∀ a ∈ l, During i s (f u a)) (h : During i s t) : During i s (l.foldl f t) := by
  induction l generalizing t with
  | nil => exact h
  | cons a l ih =>
    exact ih (fun u hu b hb => hf u hu b (List.mem_cons_of_mem a hb)) (hf t h a List.mem_cons_self)

protected theorem During.detachPipe (h : During i s t) (a : BitVec 7) (j : PipeId) (hi : Releases i j) :
    During i s (detachPipe a t j) := by
  simp only [detachPipe]
  split
  · split
    · exact (h.releasePipe j hi).modPipe 0 _
    · exact h.releasePipe j hi
  · exact h

protected theorem During.handleDetach (h : During i s t) (k : PortId) (hi : ∀ j, Releases i j) :
    During i s (handleDetach k t) := by
  simp only [handleDetach]
  split
  · exact h
  · exact (((h.foldl fun u hu j _ => hu.detachPipe _ j (hi j)).modLink k _).gate k).notify _ k _

protected theorem During.debounce (h : During i s t) (n : Nat) (a : LineState) : During i s (debounce n a t).2 :=
  h.quiet (by constructor <;> simp)

protected theorem During.linkAttachProcess (h : During i s t) (k : PortId) : During i s (linkAttachProcess k t) := by
  have hout (r : Option LineState × State) (hr : During i s r.2) : During i s (attachOutcome k r) := by
    unfold attachOutcome
    split
    · exact (hr.modLink k _).notify _ k _
    · exact (hr.modLink k _).notify _ k _
    · exact hr.modLink k _
    · exact hr.modLink k _
    · exact hr.modLink k _
  have hdraw : During i s (drawLineState t).2 := h.quiet (by constructor <;> simp)
  simp only [linkAttachProcess]
  split
  · exact h.returns .invalidState
  · exact ((hout _ (hdraw.debounce _ _)).gate k).returns .ok

protected theorem During.resetPoll (h : During i s t) (v : Speed) (n : Nat) : During i s (resetPoll v n t).2 :=
  h.quiet (by constructor <;> simp)

protected theorem During.assertReset (h : During i s t) (k : PortId) (v : Speed) : During i s (assertReset k v t) :=
  (((h.enterLink k .resetting).modLink k fun l => { l with resetSig := true }).delay _).modLink k fun l =>
    { l with resetSig := false, conn := if v = .sFull then .cHsNegotiating else l.conn }

protected theorem During.finishReset (h : During i s t) (k : PortId) (v : Speed) : During i s (finishReset k v t) :=
  ((((h.modLink k _).delay _).modLink k _).enterLink k _).notify _ k _

protected theorem During.linkBusReset (h : During i s t) (k : PortId) : During i s (linkBusReset k t) := by
  simp only [linkBusReset]
  split
  · exact h.returns .invalidState
  · exact (((h.assertReset k _).resetPoll _ _).finishReset k _).returns .ok

protected theorem During.linkSetAddress (h : During i s t) (k : PortId) (a : BitVec 7) :
    During i s (linkSetAddress k a t) := by
  unfold linkSetAddress
  split
  · exact h.returns .invalidState
  · split
    · exact h.returns .invalidArg
    · exact (h.modLink k _).returns .ok

protected theorem During.linkSuspend (h : During i s t) (k : PortId) : During i s (linkSuspend k t) := by
  simp only [linkSuspend]
  split
  · exact h.returns .invalidState
  · exact (((h.modLink k _).enterLink k _).notify _ k _).returns .ok

protected theorem During.linkResume (h : During i s t) (k : PortId) : During i s (linkResume k t) := by
  simp only [linkResume]
  split
  · exact h.returns .invalidState
  · have h1 := (h.enterLink k .resuming).modLink k fun l => { l with resumeSig := true }
    exact (((((h1.delay _).modLink k _).modLink k _).enterLink k .active).notify _ k _).returns .ok

end HostLink

/-! ### Control requests -/

section Control

variable {i : Instr}

protected theorem During.handleSetup (h : During i s t) : During i s (handleSetup t) :=
  (((h.terminateIfBusy 0 .stopped).modPipe 0 _).modCtrl _ fun _ => by simp [Ctrl.Good]).addSetup _

protected theorem During.ctrlAck (h : During i s t) : During i s (ctrlAck t) := by
  unfold ctrlAck
  split
  · exact h.returns .invalidState
  · exact ((h.modPipe 0 _).modCtrl _ fun _ => by simp [Ctrl.Good]).returns .ok

protected theorem During.stallControl (h : During i s t) (r : Result) : During i s (stallControl r t) :=
  ((h.terminateIfBusy 0 r).modPipe 0 _).modCtrl _ fun _ => by simp [Ctrl.Good]

protected theorem During.handleStsdone (h : During i s t) : During i s (handleStsdone t) := by
  unfold handleStsdone
  split
  · exact (h.modPipe 0 _).modCtrl _ fun _ => by simp [Ctrl.Good]
  · exact h

end Control

/-! ### The control record outside a data stage: no end of a request touches it (R198) -/

section NoDataStage

variable {j : PipeId}

/-- Configuration and control record are as before. -/
structure SameCtrl (s t : State) : Prop where
  cfg : t.cfg = s.cfg
  ctrl : t.ctrl = s.ctrl

theorem SameCtrl.refl (s : State) : SameCtrl s s := ⟨rfl, rfl⟩

theorem SameCtrl.trans (h : SameCtrl s t) (g : SameCtrl t u) : SameCtrl s u := ⟨g.cfg.trans h.cfg, g.ctrl.trans h.ctrl⟩

theorem SameCtrl.noDataStage (h : SameCtrl s t) (hs : s.inDataStage j = false) : t.inDataStage j = false :=
  (inDataStage_congr h.cfg h.ctrl).trans hs

protected theorem SameCtrl.returns (h : SameCtrl s t) (r : Status) : SameCtrl s (t.returns r) := ⟨h.cfg, h.ctrl⟩

protected theorem SameCtrl.acquirePort (h : SameCtrl s t) (p : FPort) : SameCtrl s (acquirePort j p t).2 := by
  refine h.trans ⟨((onlyPipe_acquirePort p).2 (.refl j t)).cfg, ?_⟩
  by_cases hc : t.CanAcquire j p
  · have ha : Acquired j p t (acquirePort j p t).2 := acquirePort_acquired p hc
    unfold Acquired at ha
    split at ha
    · rw [ha]
    · exact ha.ctrl
  · exact congrArg (·.ctrl) (acquirePort_failed p hc).2.rest

protected theorem SameCtrl.complete (h : SameCtrl s t) (d : Dir) (r : Result) (hs : s.inDataStage j = false) :
    SameCtrl s (complete j d r t) := by
  have hd : Completed j d r t (complete j d r t) := complete_completed d r
  exact h.trans ⟨hd.frame.cfg, by simp [hd.ctrl, h.noDataStage hs]⟩

protected theorem SameCtrl.terminateAll (h : SameCtrl s t) (hs : s.inDataStage j = false) :
    SameCtrl s (terminateAll j .portWedged t) := by
  have hd : Terminated j .portWedged t (terminateAll j .portWedged t) := terminateAll_terminated .portWedged (by decide)
  exact h.trans ⟨hd.frame.cfg, by simp [hd.ctrl, h.noDataStage hs]⟩

protected theorem SameCtrl.commit (h : SameCtrl s t) (p : FPort) (b : Bool) : SameCtrl s (commit p j b t) :=
  h.trans (by constructor <;> simp [commit])

protected theorem SameCtrl.chunk (h : SameCtrl s t) (n : Nat) (bs : List Byte) :
    SameCtrl s (advanceSlot j .tx n (fifoWrite .c bs t)) :=
  h.trans (by constructor <;> simp [advanceSlot, fifoWrite, logFifo])

protected theorem SameCtrl.writeOwned (h : SameCtrl s t) (hs : s.inDataStage j = false) :
    SameCtrl s (writeOwned j t) := by
  simp only [writeOwned]
  split
  · exact (h.chunk _ _).commit .c false
  · split
    · exact (((h.chunk _ _).commit .c false).commit .c true).complete .tx .exact hs
    · exact ((h.chunk _ _).commit .c true).complete .tx .exact hs

protected theorem SameCtrl.writeChunk (h : SameCtrl s t) (hs : s.inDataStage j = false) :
    SameCtrl s (writeChunk j t) := by
  simp only [writeChunk]
  split
  · exact (h.acquirePort .c).writeOwned hs
  · exact (h.acquirePort .c).terminateAll hs

protected theorem SameCtrl.armCpu (h : SameCtrl s t) (d : Dir) (b l c : Word) : SameCtrl s (armCpu j d b l c t) :=
  h.trans (by constructor <;> simp [armCpu])

protected theorem SameCtrl.pushFirst (h : SameCtrl s t) (d : Dir) (hs : s.inDataStage j = false) :
    SameCtrl s (pushFirst j d t) := by
  unfold pushFirst
  split
  · exact h.writeChunk hs
  · exact h

protected theorem SameCtrl.terminateIfBusy (h : SameCtrl s t) (hs : s.inDataStage j = false) :
    SameCtrl s (terminateIfBusy j .portWedged t) := by
  unfold terminateIfBusy
  split
  · exact h.terminateAll hs
  · exact h

theorem startCommon_sameCtrl (d : Dir) (b l c : Word) (hs : s.inDataStage j = false) :
    SameCtrl s (startCommon j d b l c s) := by
  have ha : SameCtrl s (acquirePort j .c s).2 := (SameCtrl.refl s).acquirePort .c
  simp only [startCommon]
  iterate 5 (split <;> [exact (SameCtrl.refl s).returns _; skip])
  split
  · exact ((ha.armCpu d b l c).pushFirst d hs).returns .ok
  · exact (ha.terminateIfBusy hs).returns .portWedgedNow

/-- `CTRL_DATA` opens the data stage only from `CSetupReceived`, where the status stage is not enabled (R195). -/
protected theorem During.ctrlData {i : Instr} (h : During i s t) (b l c : Word) : During i s (ctrlData b l c t) := by
  unfold ctrlData
  split
  · exact h.returns .invalidState
  · next hc =>
    have hstate : t.ctrl.state = .cSetupReceived := by simpa using fun hn => hc (.inl hn)
    unfold ctrlDataResult
    split
    · exact h.startCommon 0 _ b l c
    · refine (h.startCommon 0 _ b l c).modCtrl _ fun hg => ?_
      rw [(startCommon_sameCtrl _ b l c (by simp [State.inDataStage, hstate])).ctrl] at hg ⊢
      simpa [Ctrl.Good, hstate] using hg

end NoDataStage

/-! ### The dispatcher -/

section Dispatcher

variable {i : Instr}

protected theorem During.handleBemp (h : During i s t) (j : PipeId) : During i s (handleBemp j t) := h

protected theorem During.handler (h : During .usbIrq s t) (x : Source) : During .usbIrq s (handler x t) := by
  cases x with
  | brdy j => exact h.handleBrdy j
  | bemp j => exact h.handleBemp j
  | nrdy j => exact h.handleNrdy j
  | attach k => exact h.handleAttach k
  | detach k => exact h.handleDetach k fun _ => .inr (.inr rfl)
  | linechg k => exact h.handleLinechg k
  | setup => exact h.handleSetup
  | stsdone => exact h.handleStsdone
  | seqerr => exact h.stallControl .stall

protected theorem During.deliver (h : During .usbIrq s t) (x : Source) (hx : x.pipe? ≠ none ∨ s.enb x = true) :
    During .usbIrq s (deliver t x) := by
  have hc : x.pipe? ≠ none ∨ ((Instr.usbIrq = .usbIrq) ∧ s.enb x = true) := hx.imp_right fun he => ⟨rfl, he⟩
  unfold deliver
  split
  · exact (h.clearSts x hc).handler x
  · exact (h.handler x).clearSts x hc

/-- A register's turn: what its bitmap holds was enabled when the dispatcher began, if no earlier turn changed that. -/
protected theorem During.dispatchReg (h : During .usbIrq s t) (r : EvtReg)
    (hr : ∀ x ∈ r.sources, x.pipe? = none → t.enb x = s.enb x) : During .usbIrq s (dispatchReg t r) := by
  refine h.foldl fun v hv x hx => hv.deliver x ?_
  obtain ⟨hmem, hpend⟩ := List.mem_filter.1 hx
  have henb : t.enb x = true := (Bool.and_eq_true_iff.1 hpend).2
  by_cases hp : x.pipe? = none
  · exact .inr ((hr x hmem hp) ▸ henb)
  · exact .inl hp

/-- The enable bits that belong to no pipe are as before. -/
def SameOtherEnb (s t : State) : Prop := ∀ x : Source, x.pipe? = none → t.enb x = s.enb x

theorem OnlyPipe.sameOtherEnb {j : PipeId} (h : OnlyPipe j s t) : SameOtherEnb s t :=
  fun x hx => h.enb x (by simp [hx])

theorem deliver_sameOtherEnb (x : Source) (hx : x.pipe? ≠ none) : SameOtherEnb s (deliver s x) := by
  have hh (v : State) : SameOtherEnb v (handler x v) := by
    cases x with
    | brdy j => exact (onlyPipe_handleBrdy.2 (.refl j v)).sameOtherEnb
    | bemp j => exact fun _ _ => rfl
    | nrdy j => exact (onlyPipe_handleNrdy.2 (.refl j v)).sameOtherEnb
    | _ => exact absurd rfl hx
  intro y hy
  unfold deliver
  split
  · rw [hh _ y hy, setSts_enb]
  · rw [setSts_enb, hh _ y hy]

/-- The registers of the pipes change no other enable bit, so each other register's turn finds its own as they were. -/
theorem dispatchReg_sameOtherEnb (r : EvtReg) (hr : ∀ x ∈ r.sources, x.pipe? ≠ none) :
    SameOtherEnb s (dispatchReg s r) := by
  have hfold (l : List Source) (hl : ∀ x ∈ l, x.pipe? ≠ none) (v : State) : SameOtherEnb v (l.foldl deliver v) := by
    induction l generalizing v with
    | nil => exact fun _ _ => rfl
    | cons x l ih =>
      intro y hy
      rw [List.foldl_cons, ih (fun z hz => hl z (List.mem_cons_of_mem x hz)) _ y hy]
      exact deliver_sameOtherEnb x (hl x List.mem_cons_self) y hy
  exact hfold _ (fun x hx => hr x (List.mem_filter.1 hx).1) s

/-- No operation writes a control enable bit (R257). -/
theorem During.enb_ctrl (h : During i s t) (x : Source) (hx : x.reg = .ctrl) : t.enb x = s.enb x := by
  induction h with
  | start => rfl
  | quiet _ hq ih => rw [hq.enb, ih]
  | setEnb _ y b hy ih => rw [setEnb_enb, if_neg (by rintro rfl; exact hy hx), ih]
  | _ => simp_all

theorem SameOtherEnb.trans (h : SameOtherEnb s t) (g : SameOtherEnb t u) : SameOtherEnb s u :=
  fun x hx => (g x hx).trans (h x hx)

theorem dispatch_during : During .usbIrq s (dispatch s) := by
  have hbrdy : SameOtherEnb s (dispatchReg s .brdy) := dispatchReg_sameOtherEnb .brdy (by decide)
  have hbemp := hbrdy.trans (dispatchReg_sameOtherEnb .bemp (by decide))
  have hnrdy := hbemp.trans (dispatchReg_sameOtherEnb .nrdy (by decide))
  have h := (During.start (s := s)).dispatchReg .brdy fun _ _ _ => rfl
  have h := (h.dispatchReg .bemp fun x _ => hbrdy x).dispatchReg .nrdy fun x _ => hbemp x
  have h := h.dispatchReg .link fun x _ => hnrdy x
  have hctrl : ∀ x ∈ EvtReg.ctrl.sources, x.reg = .ctrl := by decide
  exact h.dispatchReg .ctrl fun x hx _ => h.enb_ctrl x (hctrl x hx)

theorem execUsbIrq_during : NextMeets (During .usbIrq s) (execUsbIrq s) := by
  unfold execUsbIrq
  split <;> simp [dispatch_during]

end Dispatcher

/-! ### The environment -/

section Environment

variable {i : Instr}

theorem Chan.Good.moveBlock {c : Chan} {n : Nat} (hb : c.bound = true) (hd : c.done = false)
    (hn : c.dirn = .tx → n = c.blockSize) : (c.moveBlock n).Good where
  unbound h := by simp [Chan.moveBlock, hb] at h
  whole _ h := hn h
  ended _ h := by
    have hn := hn h
    simp [Chan.moveBlock, hd, hn]

protected theorem During.moveBlock (h : During i s t) (p : DPort) (hb : (t.chan p).bound = true)
    (hd : (t.chan p).done = false) : During i s (moveBlock p t) := by
  simp only [moveBlock]
  split
  · next hdir =>
    exact (h.addTx _).modChan p _ (fun _ => .inl hb) fun _ => .moveBlock hb hd fun _ => rfl
  · next hdir =>
    have hc (b : Nat) (m : Memory) : ((drawRxBlock b t).2.setMem m).chan p = t.chan p := by simp
    refine ((h.drawRxBlock _).setMem _).modChan p _ ?_ ?_ <;> rw [hc]
    · exact fun _ => .inl hb
    · exact fun _ => .moveBlock hb hd fun hn => by simp [hdir] at hn

theorem execDmaBlock_during (f : FPort) : NextMeets (During i s) (execDmaBlock f s) := by
  unfold execDmaBlock
  split
  · exact nextMeets_refused _
  · next p _ =>
    split <;> [skip; split]
    · exact nextMeets_refused _
    · next hc =>
      simp only [State.canMoveBlock, Bool.and_eq_true, Bool.not_eq_true'] at hc
      obtain ⟨⟨⟨⟨⟨⟨hb, -⟩, hd⟩, -⟩, -⟩, -⟩, -⟩ := hc
      exact nextMeets_next.2 (During.start.moveBlock p hb hd)
    · exact nextMeets_refused _

theorem execHwSetup_during (bs : List Byte) : NextMeets (During (.hwSetup bs) s) (execHwSetup bs s) := by
  unfold execHwSetup
  split <;> [skip; split]
  · exact nextMeets_refused _
  · exact nextMeets_refused _
  · exact nextMeets_next.2 ((During.start.modCtrl _ id).setSts .setup rfl).hwToggles

theorem execHwRxPacket_during (idx : BitVec 8) (bs : List Byte) :
    NextMeets (During (.hwRxPacket idx bs) s) (execHwRxPacket idx bs s) := by
  unfold execHwRxPacket
  split
  · exact nextMeets_refused _
  · exact hwPipeStep_meets fun j => ((During.start.modPipe j _).setSts (.brdy j) rfl).hwToggles

theorem execHwStatusDone_during : NextMeets (During .hwStatusDone s) (execHwStatusDone s) := by
  unfold execHwStatusDone
  split <;> [skip; split]
  · exact nextMeets_refused _
  · exact nextMeets_refused _
  · exact nextMeets_next.2 (During.start.setSts .stsdone rfl).hwToggles

theorem execHwSeqErr_during : NextMeets (During .hwSeqErr s) (execHwSeqErr s) := by
  unfold execHwSeqErr
  split
  · exact nextMeets_refused _
  · exact nextMeets_next.2 (During.start.setSts .seqerr rfl).hwToggles

end Environment

/-! ### Every operation -/

section Commands

variable {i : Instr}

theorem execConfigurePipe_during (idx : BitVec 8) (ty : TType) (d : UsbDir) (m : BitVec 11) (a : Option (BitVec 7)) :
    NextMeets (During (.configurePipe idx ty d m a) s) (execConfigurePipe idx ty d m a s) := by
  unfold execConfigurePipe
  split
  · exact nextMeets_next.2 (During.start.returns _)
  · next j hj =>
    have hi : Configures (.configurePipe idx ty d m a) j := ⟨idx, ty, d, m, a, rfl, (pipeOf?_some hj).1.symm⟩
    split <;> [skip; split] <;> refine nextMeets_next.2 ?_
    · exact During.start.returns _
    · exact During.start.returns _
    · exact (((During.start.configure j ty d m.toNat a hi).disableSources j).clearStatus j).returns .ok

theorem execReleasePipe_during (idx : BitVec 8) : NextMeets (During (.releasePipe idx) s) (execReleasePipe idx s) := by
  unfold execReleasePipe
  split
  · exact nextMeets_next.2 (During.start.returns _)
  · next j hj =>
    exact nextMeets_next.2 ((During.start.releasePipe j (.inl ⟨idx, rfl, (pipeOf?_some hj).1.symm⟩)).returns .ok)

theorem execAcquirePort_during (idx : BitVec 8) (f : FPort) : NextMeets (During i s) (execAcquirePort idx f s) := by
  unfold execAcquirePort acquireResult
  split
  · exact nextMeets_next.2 (During.start.returns _)
  · next j _ =>
    split <;> [skip; split <;> [skip; split]] <;> refine nextMeets_next.2 ?_
    · exact During.start.returns _
    · exact During.start.returns _
    · exact (During.start.acquirePort j f).returns .ok
    · exact ((During.start.acquirePort j f).terminateIfBusy j .portWedged).returns .portWedgedNow

theorem execRead_during (idx : BitVec 8) (b l c : Word) : NextMeets (During i s) (execRead idx b l c s) := by
  unfold execRead
  split
  · exact nextMeets_next.2 (During.start.returns _)
  · exact nextMeets_next.2 (During.start.startCommon _ .rx b l c)

theorem execWrite_during (idx : BitVec 8) (b l c : Word) : NextMeets (During i s) (execWrite idx b l c s) := by
  unfold execWrite
  split
  · exact nextMeets_next.2 (During.start.returns _)
  · exact nextMeets_next.2 (During.start.startCommon _ .tx b l c)

theorem execStop_during (idx : BitVec 8) : NextMeets (During i s) (execStop idx s) := by
  unfold execStop
  split
  · exact nextMeets_next.2 (During.start.returns _)
  · exact nextMeets_next.2 ((During.start.terminateIfBusy _ .stopped).returns .ok)

theorem execDmaStart_during (idx : BitVec 8) (b l : Word) (f : FPort) (c : Word) :
    NextMeets (During i s) (execDmaStart idx b l f c s) := by
  unfold execDmaStart
  split <;> refine nextMeets_next.2 ?_
  · split
    · exact During.start.returns _
    · exact During.start.dmaStart _ b l _ c
  · exact During.start.returns _
  · exact During.start.returns _

theorem execHBrdy_during (p : BitVec 5) : NextMeets (During i s) (execHBrdy p s) := by
  unfold execHBrdy
  split
  · exact nextMeets_refused _
  · exact nextMeets_next.2 (During.start.handleBrdy _)

theorem execHBemp_during (p : BitVec 5) : NextMeets (During i s) (execHBemp p s) := by
  unfold execHBemp
  split
  · exact nextMeets_refused _
  · exact nextMeets_next.2 (During.start.handleBemp _)

theorem execHNrdy_during (p : BitVec 5) : NextMeets (During i s) (execHNrdy p s) := by
  unfold execHNrdy
  split
  · exact nextMeets_refused _
  · exact nextMeets_next.2 (During.start.handleNrdy _)

end Commands

/-- Every operation goes from its start to its next state by the updates of `During`. -/
theorem exec_during (i : Instr) : NextMeets (During i s) (exec i s) := by
  cases i with
  | configurePipe idx ty d m a => exact execConfigurePipe_during idx ty d m a
  | releasePipe idx => exact execReleasePipe_during idx
  | acquirePort idx f => exact execAcquirePort_during idx f
  | read idx b l c => exact execRead_during idx b l c
  | write idx b l c => exact execWrite_during idx b l c
  | stop idx => exact execStop_during idx
  | dmaStart idx b l f c => exact execDmaStart_during idx b l f c
  | linkAttachProcess idx => exact linkCommand_meets During.start.returns During.start.linkAttachProcess
  | linkBusReset idx => exact linkCommand_meets During.start.returns During.start.linkBusReset
  | linkSuspend idx => exact linkCommand_meets During.start.returns During.start.linkSuspend
  | linkResume idx => exact linkCommand_meets During.start.returns During.start.linkResume
  | linkSetAddress idx a => exact linkCommand_meets During.start.returns fun k => During.start.linkSetAddress k a
  | ctrlAck => exact ctrlCommand_meets (During.start.returns _) During.start.ctrlAck
  | ctrlStall => exact ctrlCommand_meets (During.start.returns _) ((During.start.stallControl .stopped).returns .ok)
  | ctrlData b l c => exact ctrlCommand_meets (During.start.returns _) (During.start.ctrlData b l c)
  | usbIrq => exact execUsbIrq_during
  | dmaIrq f => exact execDmaIrq_during f
  | hwRxPacket idx bs => exact execHwRxPacket_during idx bs
  | hwTxReady idx => exact hwPipeStep_meets fun j => (During.start.setSts (.brdy j) rfl).hwToggles
  | hwNotReady idx => exact hwPipeStep_meets fun j => (During.start.setSts (.nrdy j) rfl).hwToggles
  | hwStall idx => exact hwPipeStep_meets fun j => ((During.start.modPipe j _).setSts (.nrdy j) rfl).hwToggles
  | hwBufEmpty idx => exact hwPipeStep_meets fun j => (During.start.setSts (.bemp j) rfl).hwToggles
  | hwAttach idx => exact hwLinkStep_meets fun k => (During.start.setSts (.attach k) rfl).hwToggles
  | hwDetach idx => exact hwLinkStep_meets fun k => (During.start.setSts (.detach k) rfl).hwToggles
  | hwLinechg idx => exact hwLinkStep_meets fun k => (During.start.setSts (.linechg k) rfl).hwToggles
  | hwSetup bs => exact execHwSetup_during bs
  | hwStatusDone => exact execHwStatusDone_during
  | hwSeqErr => exact execHwSeqErr_during
  | dmaBlock f => exact execDmaBlock_during f
  | hBrdy p => exact execHBrdy_during p
  | hBemp p => exact execHBemp_during p
  | hNrdy p => exact execHNrdy_during p
  | hAttach k => exact linkHandler_meets During.start.handleAttach
  | hDetach k => exact linkHandler_meets fun j => During.start.handleDetach j fun _ => .inr (.inl ⟨k, rfl⟩)
  | hLinechg k => exact linkHandler_meets During.start.handleLinechg
  | hSetup => exact ctrlHandler_meets During.start.handleSetup
  | hStsdone => exact ctrlHandler_meets During.start.handleStsdone
  | hSeqerr => exact ctrlHandler_meets (During.start.stallControl .stall)

end Sys2Proof.Machine
end

section
/-! SUPPORT. What every operation keeps, each by induction on `During`: the invariants of ports, channels and control
record, and who writes `configured` (R25) and the status bits (R39, R215). -/

namespace Sys2Proof.Machine

variable {i : Instr} {s t : State}

/-! ### Ports -/

theorem DPort.fport_injective : Function.Injective DPort.fport := by
  intro p q h
  cases p <;> cases q <;> cases h <;> rfl

/-- The two clauses of `PortInv` about DMA requests, as one (R31). -/
theorem PortInv.bound_of_dreq (h : PortInv s) {p : FPort} (hd : (s.port p).dreq = true) :
    ∃ q : DPort, q.fport = p ∧ (s.chan q).bound = true := by
  cases p with
  | c => simp [h.dreqC] at hd
  | d0 => exact ⟨.d0, rfl, h.dreq .d0 hd⟩
  | d1 => exact ⟨.d1, rfl, h.dreq .d1 hd⟩

theorem PortInv.congr (h : PortInv s) (hp : ∀ p, t.port p = s.port p)
    (hc : ∀ q, (s.chan q).bound = true → (t.chan q).bound = true ∨ (s.port q.fport).dreq = false) : PortInv t where
  owner p q j := by rw [hp, hp]; exact h.owner p q j
  stage p := by rw [hp]; exact h.stage p
  dreqC := by rw [hp]; exact h.dreqC
  dreq q hd := by
    rw [hp] at hd
    exact (hc q (h.dreq q hd)).resolve_right (by simp [hd])

/-- One port changes: nothing may be staged there, its owner may own no other port, a DMA request needs a bound
channel. -/
theorem PortInv.modPort (h : PortInv s) (p : FPort) (f : Port → Port) (hs : (f (s.port p)).stage = [])
    (ho : ∀ j, (f (s.port p)).owner = some j → ∀ q, q ≠ p → (s.port q).owner ≠ some j)
    (hd : (f (s.port p)).dreq = true → ∃ q : DPort, q.fport = p ∧ (s.chan q).bound = true) :
    PortInv (s.modPort p f) where
  owner q r j hq hr := by
    rw [modPort_port] at hq hr
    split at hq <;> split at hr
    · subst_vars; rfl
    · next hpr => exact absurd hr (ho j hq r (Ne.symm hpr))
    · next hpq _ => exact absurd hq (ho j hr q (Ne.symm hpq))
    · exact h.owner q r j hq hr
  stage q := by
    rw [modPort_port]
    split
    · exact hs
    · exact h.stage q
  dreqC := by
    rw [modPort_port]
    split
    · next hp =>
      subst hp
      refine Bool.eq_false_iff.2 fun hn => ?_
      obtain ⟨q, hq, -⟩ := hd hn
      cases q <;> cases hq
    · exact h.dreqC
  dreq q hq := by
    rw [modPort_port] at hq
    rw [modPort_chan]
    split at hq
    · next hp =>
      obtain ⟨r, hr, hb⟩ := hd hq
      rwa [DPort.fport_injective (hr.trans hp)] at hb
    · exact h.dreq q hq

theorem During.portInv (h : During i s t) (hs : PortInv s) : PortInv t := by
  induction h with
  | start => exact hs
  | quiet _ hq ih => exact ih.congr hq.port fun q hb => .inl (by rwa [hq.chan])
  | setEnb _ x b _ ih => exact ih.congr (by simp) (by simp_all)
  | clearSts _ x _ ih => exact ih.congr (by simp) (by simp_all)
  | setSts _ x _ ih => exact ih.congr (by simp) (by simp_all)
  | modCtrl _ f _ ih => exact ih.congr (by simp) (by simp_all)
  | configure _ j ty d m a _ ih => exact ih.congr (by simp) (by simp_all)
  | release _ j _ ih => exact ih.congr (by simp) (by simp_all)
  | emptyStage _ p ih => exact ih.modPort p _ rfl (fun j hj q hq ho => hq (ih.owner q p j ho hj)) ih.bound_of_dreq
  | freePort _ p ih => exact ih.modPort p _ rfl nofun ih.bound_of_dreq
  | bindPort _ p j hp ih =>
    exact ih.modPort p _ (ih.stage p) (fun k hk => Option.some.inj hk ▸ hp) ih.bound_of_dreq
  | dreqOff _ p ih =>
    exact ih.modPort _ _ (ih.stage _) (fun j hj q hq ho => hq (ih.owner q _ j ho hj)) nofun
  | dreqOn _ p hb ih =>
    exact ih.modPort _ _ (ih.stage _) (fun j hj q hq ho => hq (ih.owner q _ j ho hj)) fun _ => ⟨p, rfl, hb⟩
  | modChan _ p f hb _ ih =>
    refine ih.congr (by simp) fun q hq => ?_
    rw [modChan_chan]
    split
    · next hp => exact hp ▸ hb (hp ▸ hq)
    · exact .inl hq

/-! ### Channels -/

theorem chanInv_iff : ChanInv s ↔ ∀ p, (s.chan p).Good :=
  ⟨fun h p => ⟨h.unbound p, h.whole p, h.ended p⟩,
    fun h => ⟨fun p => (h p).unbound, fun p => (h p).whole, fun p => (h p).ended⟩⟩

theorem During.chanInv (h : During i s t) (hs : ChanInv s) : ChanInv t := by
  rw [chanInv_iff] at hs ⊢
  induction h with
  | start => exact hs
  | quiet _ hq ih => exact fun p => hq.chan p ▸ ih p
  | modChan _ p f _ hg ih =>
    intro q
    rw [modChan_chan]
    split
    · exact hg (ih p)
    · exact ih q
  | _ => simpa

/-! ### The control record -/

theorem During.ctrlGood (h : During i s t) (hs : s.ctrl.Good) : t.ctrl.Good := by
  induction h with
  | start => exact hs
  | quiet _ hq ih => exact hq.ctrl ▸ ih
  | modCtrl _ f hf ih => exact hf ih
  | _ => simpa

theorem During.cfg (h : During i s t) : t.cfg = s.cfg := by
  induction h with
  | start => rfl
  | quiet _ hq ih => exact hq.cfg.trans ih
  | _ => simpa

theorem During.ctrlInv (h : During i s t) (hs : CtrlInv s) : CtrlInv t where
  statusEn := h.ctrlGood hs.statusEn
  enabled x hx := by rw [h.enb_ctrl x hx, h.cfg, hs.enabled x hx]

/-! ### Status bits -/

/-- Who sets a status bit (R39, R230). -/
theorem During.env_of_sts_set (h : During i s t) (x : Source) (hs : s.sts x = false) (ht : t.sts x = true) :
    i.format = .env := by
  induction h with
  | start => simp [hs] at ht
  | quiet _ hq ih => exact ih (hq.sts x ▸ ht)
  | clearSts _ y _ ih =>
    rw [setSts_sts] at ht
    split at ht
    · cases ht
    · exact ih ht
  | setSts _ y hi => exact hi
  | _ => simp_all

/-- Who clears a status bit that belongs to no pipe (R215). -/
theorem During.irq_of_sts_clear (h : During i s t) (x : Source) (hx : x.pipe? = none) (hs : s.sts x = true)
    (ht : t.sts x = false) : i = .usbIrq ∧ s.enb x = true := by
  induction h with
  | start => simp [hs] at ht
  | quiet _ hq ih => exact ih (hq.sts x ▸ ht)
  | clearSts _ y hy ih =>
    rw [setSts_sts] at ht
    split at ht
    · next he => exact (he ▸ hy).resolve_left (not_not.2 hx)
    · exact ih ht
  | setSts _ y _ ih =>
    rw [setSts_sts] at ht
    split at ht
    · cases ht
    · exact ih ht
  | _ => simp_all

theorem pipe?_eq_none {x : Source} (h : x.reg = .link ∨ x.reg = .ctrl) : x.pipe? = none := by
  cases x <;> simp_all [Source.reg, Source.pipe?]

/-! ### `configured` -/

theorem During.configures_of_set (h : During i s t) (j : PipeId) (hs : (s.pipe j).configured = false)
    (ht : (t.pipe j).configured = true) : Configures i j := by
  induction h with
  | start => simp [hs] at ht
  | quiet _ hq ih => exact ih (hq.configured j ▸ ht)
  | configure _ k ty d m a hi ih =>
    rw [modPipe_pipe] at ht
    split at ht
    · next hk => exact hk ▸ hi
    · exact ih ht
  | release _ k _ ih =>
    rw [modPipe_pipe] at ht
    split at ht
    · next hk =>
      subst hk
      simp only [Pipe.release] at ht
      split at ht
      · exact ih ht
      · cases ht
    · exact ih ht
  | _ => simp_all

theorem During.releases_of_clear (h : During i s t) (j : PipeId) (hs : (s.pipe j).configured = true)
    (ht : (t.pipe j).configured = false) : j ≠ 0 ∧ Releases i j := by
  induction h with
  | start => simp [hs] at ht
  | quiet _ hq ih => exact ih (hq.configured j ▸ ht)
  | configure _ k ty d m a hi ih =>
    rw [modPipe_pipe] at ht
    split at ht
    · cases ht
    · exact ih ht
  | release _ k hi ih =>
    rw [modPipe_pipe] at ht
    split at ht
    · next hk =>
      subst hk
      simp only [Pipe.release] at ht
      split at ht
      · exact ih ht
      · next hk0 => exact ⟨hk0, hi⟩
    · exact ih ht
  | _ => simp_all

/-! ### Every step -/

/-- What every operation keeps, and the inbox and the return status do not matter to, every step keeps. -/
theorem step_keeps {P : State → Prop} (hd : ∀ i s t, During i s t → P s → P t) (hs : P s) (h : step s = .next t) :
    P t := by
  have hquiet {u v : State} (hq : Quiet u v) : P u → P v := hd .usbIrq u v (During.start.quiet hq)
  cases hin : s.inbox with
  | nil =>
    rw [step_of_inbox_nil hin] at h
    cases h
    exact hs
  | cons x rest =>
    rw [step_of_inbox_cons hin] at h
    have hrest : P (s.setInbox rest) := hquiet (by constructor <;> simp) hs
    exact runInput_meets (fun i t ht => hd i _ t (exec_during i t ht) hrest)
      (fun r => hquiet (by constructor <;> simp) hrest) t h

/-! ### The statements -/

/-- Settles O19: each update of `During` keeps the invariant of the ports. -/
theorem stepKeepsPortInv : Obligations.StepKeepsPortInv := fun _ _ hs h => step_keeps (fun _ _ _ => During.portInv) hs h

/-- Settles O20: each update of `During` keeps the invariant of the channels. -/
theorem stepKeepsChanInv : Obligations.StepKeepsChanInv := fun _ _ hs h => step_keeps (fun _ _ _ => During.chanInv) hs h

/-- Settles O22: each update of `During` keeps the control record's invariant, and none writes a control enable bit. -/
theorem stepKeepsCtrlInv : Obligations.StepKeepsCtrlInv := fun _ _ hs h => step_keeps (fun _ _ _ => During.ctrlInv) hs h

/-- Settles O15: of the updates of `During`, two write a status bit, and each names who may. -/
theorem statusBits : Obligations.StatusBits := fun i _ t x h =>
  ⟨(exec_during i t h).env_of_sts_set x, fun hx => (exec_during i t h).irq_of_sts_clear x (pipe?_eq_none hx)⟩

/-- Settles O14: of the updates of `During`, two write `configured`, and each names who may. -/
theorem configuredLifecycle : Obligations.ConfiguredLifecycle := fun i _ t j h =>
  ⟨(exec_during i t h).configures_of_set j, (exec_during i t h).releases_of_clear j⟩

end Sys2Proof.Machine
end

section
/-! SUPPORT. The logs are outputs (R47): with earlier entries put before the present ones, every read of the state answers
the same, every update commutes with putting them there, and so does every operation, which is made of reads and updates.
The reads are proved by `(rfl)`, not `rfl`: as plain equations they make `simp` rewrite the decision procedure of a
condition together with the condition. -/

namespace Sys2Proof.Machine

variable {s : State} {l : Logs}

/-! ### Reads -/

@[simp] theorem withEarlier_port (p : FPort) : (s.withEarlier l).port p = s.port p := by
  cases p <;> rfl

@[simp] theorem withEarlier_chan (p : DPort) : (s.withEarlier l).chan p = s.chan p := by
  cases p <;> rfl

@[simp] theorem withEarlier_cfg : (s.withEarlier l).cfg = s.cfg := (rfl)

@[simp] theorem withEarlier_pipe (j : PipeId) : (s.withEarlier l).pipe j = s.pipe j := (rfl)

@[simp] theorem withEarlier_link (k : PortId) : (s.withEarlier l).link k = s.link k := (rfl)

@[simp] theorem withEarlier_ctrl : (s.withEarlier l).ctrl = s.ctrl := (rfl)

@[simp] theorem withEarlier_mem : (s.withEarlier l).mem = s.mem := (rfl)

@[simp] theorem withEarlier_draws : (s.withEarlier l).draws = s.draws := (rfl)

@[simp] theorem withEarlier_ret : (s.withEarlier l).ret = s.ret := (rfl)

@[simp] theorem withEarlier_sts (x : Source) : (s.withEarlier l).sts x = s.sts x := (rfl)

@[simp] theorem withEarlier_enb (x : Source) : (s.withEarlier l).enb x = s.enb x := (rfl)

@[simp] theorem withEarlier_route (j : PipeId) : (s.withEarlier l).route j = s.route j := (rfl)

@[simp] theorem withEarlier_xdir (j : PipeId) : (s.withEarlier l).xdir j = s.xdir j := (rfl)

@[simp] theorem withEarlier_busy (j : PipeId) : (s.withEarlier l).busy j = s.busy j := (rfl)

@[simp] theorem withEarlier_pipeOf? (n : Nat) : (s.withEarlier l).pipeOf? n = s.pipeOf? n := (rfl)

@[simp] theorem withEarlier_portOf? (n : Nat) : (s.withEarlier l).portOf? n = s.portOf? n := (rfl)

@[simp] theorem withEarlier_blockSize (p : DPort) : (s.withEarlier l).blockSize p = s.blockSize p := (rfl)

@[simp] theorem withEarlier_sens (r : EvtReg) : (s.withEarlier l).sens r = s.sens r := (rfl)

@[simp] theorem withEarlier_pending : (s.withEarlier l).pending = s.pending := (rfl)

@[simp] theorem withEarlier_irqAsserted : (s.withEarlier l).irqAsserted = s.irqAsserted := (rfl)

@[simp] theorem withEarlier_addressTaken (k : PortId) (a : BitVec 7) :
    (s.withEarlier l).addressTaken k a = s.addressTaken k a := (rfl)

@[simp] theorem withEarlier_delegates (j : PipeId) (n : Nat) (p : DPort) :
    (s.withEarlier l).delegates j n p = s.delegates j n p := (rfl)

@[simp] theorem withEarlier_dmaStale (p : DPort) : (s.withEarlier l).dmaStale p = s.dmaStale p := by
  simp [State.dmaStale]

@[simp] theorem withEarlier_canMoveBlock (p : DPort) : (s.withEarlier l).canMoveBlock p = s.canMoveBlock p := by
  simp [State.canMoveBlock]

/-! ### Updates: those of a log append after what it holds -/

@[simp] theorem ite_withEarlier {c : Prop} [Decidable c] (t u : State) :
    (if c then t.withEarlier l else u.withEarlier l) = (if c then t else u).withEarlier l := by
  split <;> rfl

@[simp] theorem modPipe_withEarlier (j : PipeId) (f : Pipe → Pipe) :
    (s.withEarlier l).modPipe j f = (s.modPipe j f).withEarlier l := rfl

@[simp] theorem modLink_withEarlier (k : PortId) (f : Link → Link) :
    (s.withEarlier l).modLink k f = (s.modLink k f).withEarlier l := rfl

@[simp] theorem modCtrl_withEarlier (f : Ctrl → Ctrl) :
    (s.withEarlier l).modCtrl f = (s.modCtrl f).withEarlier l := rfl

@[simp] theorem modPort_withEarlier (p : FPort) (f : Port → Port) :
    (s.withEarlier l).modPort p f = (s.modPort p f).withEarlier l := by
  cases p <;> rfl

@[simp] theorem modChan_withEarlier (p : DPort) (f : Chan → Chan) :
    (s.withEarlier l).modChan p f = (s.modChan p f).withEarlier l := by
  cases p <;> rfl

@[simp] theorem setSts_withEarlier (x : Source) (b : Bool) :
    (s.withEarlier l).setSts x b = (s.setSts x b).withEarlier l := by
  cases x <;> rfl

@[simp] theorem setEnb_withEarlier (x : Source) (b : Bool) :
    (s.withEarlier l).setEnb x b = (s.setEnb x b).withEarlier l := by
  cases x <;> rfl

@[simp] theorem returns_withEarlier (r : Status) :
    (s.withEarlier l).returns r = (s.returns r).withEarlier l := rfl

@[simp] theorem setToggles_withEarlier (t : BitVec 16) :
    (s.withEarlier l).setToggles t = (s.setToggles t).withEarlier l := rfl

@[simp] theorem setMem_withEarlier (m : Memory) :
    (s.withEarlier l).setMem m = (s.setMem m).withEarlier l := rfl

@[simp] theorem setDraws_withEarlier (d : Draws) :
    (s.withEarlier l).setDraws d = (s.setDraws d).withEarlier l := rfl

@[simp] theorem addTx_withEarlier (e : List TxEntry) :
    (s.withEarlier l).addTx e = (s.addTx e).withEarlier l := by
  simp [State.addTx, State.withEarlier]

@[simp] theorem addFifo_withEarlier (e : List FifoEntry) :
    (s.withEarlier l).addFifo e = (s.addFifo e).withEarlier l := by
  simp [State.addFifo, State.withEarlier]

@[simp] theorem addEv_withEarlier (e : EvEntry) :
    (s.withEarlier l).addEv e = (s.addEv e).withEarlier l := by
  simp [State.addEv, State.withEarlier]

@[simp] theorem addTime_withEarlier (e : TimeEntry) :
    (s.withEarlier l).addTime e = (s.addTime e).withEarlier l := by
  simp [State.addTime, State.withEarlier]

@[simp] theorem addCb_withEarlier (e : CbEntry) :
    (s.withEarlier l).addCb e = (s.addCb e).withEarlier l := by
  simp [State.addCb, State.withEarlier]

@[simp] theorem addSetup_withEarlier (v : Vector Byte 8) :
    (s.withEarlier l).addSetup v = (s.addSetup v).withEarlier l := by
  simp [State.addSetup, State.withEarlier]

/-! ### Draws -/

@[simp] theorem drawClearPolls_withEarlier :
    drawClearPolls (s.withEarlier l) = ((drawClearPolls s).1, (drawClearPolls s).2.withEarlier l) := by
  simp only [drawClearPolls, withEarlier_draws]
  split <;> rfl

@[simp] theorem drawLineState_withEarlier :
    drawLineState (s.withEarlier l) = ((drawLineState s).1, (drawLineState s).2.withEarlier l) := by
  simp only [drawLineState, withEarlier_draws]
  split <;> rfl

@[simp] theorem drawHandshake_withEarlier (v : Speed) :
    drawHandshake v (s.withEarlier l) = ((drawHandshake v s).1, (drawHandshake v s).2.withEarlier l) := by
  simp only [drawHandshake, withEarlier_draws]
  split <;> rfl

@[simp] theorem drawRxBlock_withEarlier (b : Nat) :
    drawRxBlock b (s.withEarlier l) = ((drawRxBlock b s).1, (drawRxBlock b s).2.withEarlier l) := by
  simp only [drawRxBlock, withEarlier_draws]
  split <;> rfl

@[simp] theorem drawToggles_withEarlier :
    drawToggles (s.withEarlier l) = ((drawToggles s).1, (drawToggles s).2.withEarlier l) := by
  simp only [drawToggles, withEarlier_draws]
  split <;> rfl

@[simp] theorem hwToggles_withEarlier :
    hwToggles (s.withEarlier l) = (hwToggles s).withEarlier l := by
  simp [hwToggles]

/-! ### The shared operations -/

@[simp] theorem disableSources_withEarlier (j : PipeId) :
    disableSources j (s.withEarlier l) = (disableSources j s).withEarlier l := by
  simp [disableSources]

@[simp] theorem clearStatus_withEarlier (j : PipeId) :
    clearStatus j (s.withEarlier l) = (clearStatus j s).withEarlier l := by
  simp [clearStatus]

@[simp] theorem restoreSources_withEarlier (j : PipeId) (b n e : Bool) :
    restoreSources j b n e (s.withEarlier l) = (restoreSources j b n e s).withEarlier l := by
  simp [restoreSources]

@[simp] theorem gate_withEarlier (k : PortId) :
    gate k (s.withEarlier l) = (gate k s).withEarlier l := by
  simp [gate]

@[simp] theorem delay_withEarlier (n : Nat) :
    delay n (s.withEarlier l) = (delay n s).withEarlier l := by
  simp [delay]

@[simp] theorem notify_withEarlier (e : Event) (k : PortId) (v : Speed) :
    notify e k v (s.withEarlier l) = (notify e k v s).withEarlier l := by
  simp [notify]

@[simp] theorem callback_withEarlier (cb : Word) (j : PipeId) (r : Result) (n : Nat) :
    callback cb j r n (s.withEarlier l) = (callback cb j r n s).withEarlier l := by
  simp [callback]

@[simp] theorem logFifo_withEarlier (p : FPort) (rw : Rw) (bs : List Byte) :
    logFifo p rw bs (s.withEarlier l) = (logFifo p rw bs s).withEarlier l := by
  simp [logFifo]

@[simp] theorem fifoWrite_withEarlier (p : FPort) (bs : List Byte) :
    fifoWrite p bs (s.withEarlier l) = (fifoWrite p bs s).withEarlier l := by
  simp [fifoWrite]

@[simp] theorem fifoRead_withEarlier (p : FPort) (j : PipeId) (n : Nat) :
    fifoRead p j n (s.withEarlier l) = ((fifoRead p j n s).1, (fifoRead p j n s).2.withEarlier l) := by
  simp [fifoRead]

@[simp] theorem commit_withEarlier (p : FPort) (j : PipeId) (b : Bool) :
    commit p j b (s.withEarlier l) = (commit p j b s).withEarlier l := by
  simp [commit]

@[simp] theorem clearPort_withEarlier (p : FPort) :
    clearPort p (s.withEarlier l) = ((clearPort p s).1, (clearPort p s).2.withEarlier l) := by
  simp only [clearPort, drawClearPolls_withEarlier, withEarlier_cfg]
  split <;> simp

@[simp] theorem dropPort_withEarlier (j : PipeId) (p q : FPort) :
    dropPort j p q (s.withEarlier l) = (dropPort j p q s).withEarlier l := by
  simp [dropPort]

@[simp] theorem dropOthers_withEarlier (j : PipeId) (p : FPort) :
    dropOthers j p (s.withEarlier l) = (dropOthers j p s).withEarlier l := by
  simp [dropOthers]

@[simp] theorem bindOrWedge_withEarlier (j : PipeId) (p : FPort) :
    bindOrWedge j p (s.withEarlier l) = ((bindOrWedge j p s).1, (bindOrWedge j p s).2.withEarlier l) := by
  simp [bindOrWedge]

@[simp] theorem acquirePort_withEarlier (j : PipeId) (p : FPort) :
    acquirePort j p (s.withEarlier l) = ((acquirePort j p s).1, (acquirePort j p s).2.withEarlier l) := by
  simp only [acquirePort, withEarlier_port]
  split <;> simp

@[simp] theorem ctrlDataDone_withEarlier (r : Result) :
    ctrlDataDone r (s.withEarlier l) = (ctrlDataDone r s).withEarlier l := by
  simp [ctrlDataDone]

@[simp] theorem finish_withEarlier (j : PipeId) (d : Dir) (r : Result) :
    finish j d r (s.withEarlier l) = (finish j d r s).withEarlier l := by
  simp [finish]

@[simp] theorem complete_withEarlier (j : PipeId) (d : Dir) (r : Result) :
    complete j d r (s.withEarlier l) = (complete j d r s).withEarlier l := by
  simp [complete]

@[simp] theorem dropChan_withEarlier (j : PipeId) (p : DPort) :
    dropChan j p (s.withEarlier l) = (dropChan j p s).withEarlier l := by
  simp [dropChan]

@[simp] theorem clearOwned_withEarlier (j : PipeId) (p : FPort) :
    clearOwned j p (s.withEarlier l) = (clearOwned j p s).withEarlier l := by
  simp [clearOwned]

@[simp] theorem finishIfBusy_withEarlier (j : PipeId) (d : Dir) (r : Result) :
    finishIfBusy j d r (s.withEarlier l) = (finishIfBusy j d r s).withEarlier l := by
  simp [finishIfBusy]

@[simp] theorem quiesce_withEarlier (j : PipeId) :
    quiesce j (s.withEarlier l) = (quiesce j s).withEarlier l := by
  simp [quiesce]

@[simp] theorem terminateAll_withEarlier (j : PipeId) (r : Result) :
    terminateAll j r (s.withEarlier l) = (terminateAll j r s).withEarlier l := by
  simp [terminateAll]

@[simp] theorem terminateIfBusy_withEarlier (j : PipeId) (r : Result) :
    terminateIfBusy j r (s.withEarlier l) = (terminateIfBusy j r s).withEarlier l := by
  simp [terminateIfBusy]

@[simp] theorem releasePipe_withEarlier (j : PipeId) :
    releasePipe j (s.withEarlier l) = (releasePipe j s).withEarlier l := by
  simp [releasePipe]

/-! ### The CPU path -/

@[simp] theorem advanceSlot_withEarlier (j : PipeId) (d : Dir) (n : Nat) :
    advanceSlot j d n (s.withEarlier l) = (advanceSlot j d n s).withEarlier l := by
  simp [advanceSlot]

@[simp] theorem writeOwned_withEarlier (j : PipeId) :
    writeOwned j (s.withEarlier l) = (writeOwned j s).withEarlier l := by
  simp [writeOwned]

@[simp] theorem writeChunk_withEarlier (j : PipeId) :
    writeChunk j (s.withEarlier l) = (writeChunk j s).withEarlier l := by
  simp [writeChunk]

@[simp] theorem readOwned_withEarlier (j : PipeId) (pkt : List Byte) :
    readOwned j pkt (s.withEarlier l) = (readOwned j pkt s).withEarlier l := by
  simp [readOwned]

@[simp] theorem readChunk_withEarlier (j : PipeId) :
    readChunk j (s.withEarlier l) = (readChunk j s).withEarlier l := by
  simp only [readChunk, withEarlier_pipe]
  split <;> simp

@[simp] theorem armCpu_withEarlier (j : PipeId) (d : Dir) (b n c : Word) :
    armCpu j d b n c (s.withEarlier l) = (armCpu j d b n c s).withEarlier l := by
  simp [armCpu]

@[simp] theorem pushFirst_withEarlier (j : PipeId) (d : Dir) :
    pushFirst j d (s.withEarlier l) = (pushFirst j d s).withEarlier l := by
  simp [pushFirst]

@[simp] theorem startCommon_withEarlier (j : PipeId) (d : Dir) (b n c : Word) :
    startCommon j d b n c (s.withEarlier l) = (startCommon j d b n c s).withEarlier l := by
  simp [startCommon]

@[simp] theorem handleBrdy_withEarlier (j : PipeId) :
    handleBrdy j (s.withEarlier l) = (handleBrdy j s).withEarlier l := by
  simp only [handleBrdy, withEarlier_route, withEarlier_pipe]
  split <;> [skip; split] <;> simp

@[simp] theorem handleBemp_withEarlier (j : PipeId) :
    handleBemp j (s.withEarlier l) = (handleBemp j s).withEarlier l := rfl

@[simp] theorem retryNotReady_withEarlier (j : PipeId) :
    retryNotReady j (s.withEarlier l) = (retryNotReady j s).withEarlier l := by
  simp [retryNotReady]

@[simp] theorem handleNrdy_withEarlier (j : PipeId) :
    handleNrdy j (s.withEarlier l) = (handleNrdy j s).withEarlier l := by
  simp [handleNrdy]

/-! ### The DMA path -/

@[simp] theorem armDma_withEarlier (j : PipeId) (d : Dir) (b n c : Word) (p : DPort) :
    armDma j d b n c p (s.withEarlier l) = (armDma j d b n c p s).withEarlier l := by
  simp [armDma]

@[simp] theorem dmaStart_withEarlier (j : PipeId) (b n : Word) (p : DPort) (c : Word) :
    dmaStart j b n p c (s.withEarlier l) = (dmaStart j b n p c s).withEarlier l := by
  simp [dmaStart]

@[simp] theorem dmaAccount_withEarlier (p : DPort) :
    dmaAccount p (s.withEarlier l) = (dmaAccount p s).withEarlier l := by
  simp [dmaAccount]

@[simp] theorem dmaRemainder_withEarlier (j : PipeId) (d : Dir) :
    dmaRemainder j d (s.withEarlier l) = (dmaRemainder j d s).withEarlier l := by
  simp [dmaRemainder]

@[simp] theorem dmaEnd_withEarlier (p : DPort) (j : PipeId) (d : Dir) :
    dmaEnd p j d (s.withEarlier l) = (dmaEnd p j d s).withEarlier l := by
  cases d <;> simp [dmaEnd]

@[simp] theorem dmaComplete_withEarlier (p : DPort) (c : Chan) :
    dmaComplete p c (s.withEarlier l) = (dmaComplete p c s).withEarlier l := by
  simp [dmaComplete]

@[simp] theorem moveBlock_withEarlier (p : DPort) :
    moveBlock p (s.withEarlier l) = (moveBlock p s).withEarlier l := by
  simp only [moveBlock, withEarlier_chan]
  split <;> simp

/-! ### The host link -/

@[simp] theorem enterLink_withEarlier (k : PortId) (x : LinkState) :
    enterLink k x (s.withEarlier l) = (enterLink k x s).withEarlier l := by
  simp [enterLink]

@[simp] theorem handleAttach_withEarlier (k : PortId) :
    handleAttach k (s.withEarlier l) = (handleAttach k s).withEarlier l := by
  simp [handleAttach]

@[simp] theorem handleLinechg_withEarlier (k : PortId) :
    handleLinechg k (s.withEarlier l) = (handleLinechg k s).withEarlier l := by
  simp [handleLinechg]

@[simp] theorem debounce_withEarlier (n : Nat) (a : LineState) :
    debounce n a (s.withEarlier l) = ((debounce n a s).1, (debounce n a s).2.withEarlier l) := by
  induction n generalizing a s with
  | zero => rfl
  | succ n ih =>
    simp only [debounce, withEarlier_cfg, delay_withEarlier, drawLineState_withEarlier]
    split
    · rfl
    · exact ih _

@[simp] theorem setLink_withEarlier (k : PortId) (x : LinkState) (c : Conn) :
    setLink k x c (s.withEarlier l) = (setLink k x c s).withEarlier l := by
  simp [setLink]

theorem attachOutcome_withEarlier (k : PortId) (r : Option LineState × State) :
    attachOutcome k (r.1, r.2.withEarlier l) = (attachOutcome k r).withEarlier l := by
  simp only [attachOutcome]
  split <;> simp

@[simp] theorem linkAttachProcess_withEarlier (k : PortId) :
    linkAttachProcess k (s.withEarlier l) = (linkAttachProcess k s).withEarlier l := by
  simp [linkAttachProcess, attachOutcome_withEarlier]

@[simp] theorem resetPoll_withEarlier (v : Speed) (n : Nat) :
    resetPoll v n (s.withEarlier l) = ((resetPoll v n s).1, (resetPoll v n s).2.withEarlier l) := by
  induction n generalizing s with
  | zero => rfl
  | succ n ih =>
    simp only [resetPoll, drawHandshake_withEarlier, withEarlier_cfg, delay_withEarlier]
    split
    · rfl
    · exact ih

@[simp] theorem assertReset_withEarlier (k : PortId) (v : Speed) :
    assertReset k v (s.withEarlier l) = (assertReset k v s).withEarlier l := by
  simp [assertReset]

@[simp] theorem finishReset_withEarlier (k : PortId) (v : Speed) :
    finishReset k v (s.withEarlier l) = (finishReset k v s).withEarlier l := by
  simp [finishReset]

@[simp] theorem linkBusReset_withEarlier (k : PortId) :
    linkBusReset k (s.withEarlier l) = (linkBusReset k s).withEarlier l := by
  simp only [linkBusReset, withEarlier_link]
  split <;> simp

@[simp] theorem linkSetAddress_withEarlier (k : PortId) (a : BitVec 7) :
    linkSetAddress k a (s.withEarlier l) = (linkSetAddress k a s).withEarlier l := by
  simp [linkSetAddress]

@[simp] theorem linkSuspend_withEarlier (k : PortId) :
    linkSuspend k (s.withEarlier l) = (linkSuspend k s).withEarlier l := by
  simp [linkSuspend]

@[simp] theorem linkResume_withEarlier (k : PortId) :
    linkResume k (s.withEarlier l) = (linkResume k s).withEarlier l := by
  simp [linkResume]

theorem foldl_withEarlier {α : Type} {f : State → α → State}
    (hf : ∀ s a, f (s.withEarlier l) a = (f s a).withEarlier l) (as : List α) (s : State) :
    as.foldl f (s.withEarlier l) = (as.foldl f s).withEarlier l := by
  induction as generalizing s with
  | nil => rfl
  | cons a as ih => rw [List.foldl_cons, List.foldl_cons, hf, ih]

@[simp] theorem detachPipe_withEarlier (a : BitVec 7) (s : State) (j : PipeId) :
    detachPipe a (s.withEarlier l) j = (detachPipe a s j).withEarlier l := by
  simp [detachPipe]

@[simp] theorem handleDetach_withEarlier (k : PortId) :
    handleDetach k (s.withEarlier l) = (handleDetach k s).withEarlier l := by
  simp [handleDetach, foldl_withEarlier (detachPipe_withEarlier _)]

/-! ### Control requests -/

@[simp] theorem handleSetup_withEarlier :
    handleSetup (s.withEarlier l) = (handleSetup s).withEarlier l := by
  simp [handleSetup]

@[simp] theorem ctrlAck_withEarlier :
    ctrlAck (s.withEarlier l) = (ctrlAck s).withEarlier l := by
  simp [ctrlAck]

@[simp] theorem stallControl_withEarlier (r : Result) :
    stallControl r (s.withEarlier l) = (stallControl r s).withEarlier l := by
  simp [stallControl]

@[simp] theorem ctrlDataResult_withEarlier (c : Word) :
    ctrlDataResult c (s.withEarlier l) = (ctrlDataResult c s).withEarlier l := by
  simp [ctrlDataResult]

@[simp] theorem ctrlData_withEarlier (b n c : Word) :
    ctrlData b n c (s.withEarlier l) = (ctrlData b n c s).withEarlier l := by
  simp [ctrlData]

@[simp] theorem handleStsdone_withEarlier :
    handleStsdone (s.withEarlier l) = (handleStsdone s).withEarlier l := by
  simp [handleStsdone]

@[simp] theorem handleSeqerr_withEarlier :
    handleSeqerr (s.withEarlier l) = (handleSeqerr s).withEarlier l := by
  simp [handleSeqerr]

/-! ### The dispatcher -/

@[simp] theorem handler_withEarlier (x : Source) : handler x (s.withEarlier l) = (handler x s).withEarlier l := by
  cases x <;> simp [handler]

@[simp] theorem deliver_withEarlier (s : State) (x : Source) :
    deliver (s.withEarlier l) x = (deliver s x).withEarlier l := by
  simp only [deliver, withEarlier_sens]
  split <;> simp

@[simp] theorem dispatchReg_withEarlier (s : State) (r : EvtReg) :
    dispatchReg (s.withEarlier l) r = (dispatchReg s r).withEarlier l := by
  simp [dispatchReg, foldl_withEarlier deliver_withEarlier]

@[simp] theorem dispatch_withEarlier : dispatch (s.withEarlier l) = (dispatch s).withEarlier l :=
  foldl_withEarlier dispatchReg_withEarlier allRegs s

/-! ### Outcomes -/

@[simp] theorem mapNext_next (f : State → State) : mapNext f (.next s) = .next (f s) := rfl

@[simp] theorem mapNext_fault (f : State → State) (r : Fault) : mapNext f (.fault r) = .fault r := rfl

@[simp] theorem mapNext_refused (f : State → State) (r : Refusal) : mapNext f (.refused r) = .refused r := rfl

/-- From this state `f` does the same after earlier log entries. -/
def IgnoresLogs (l : Logs) (s : State) (f : State → Host.Outcome State Fault Refusal) : Prop :=
  f (s.withEarlier l) = mapNext (·.withEarlier l) (f s)

theorem linkCommand_ignoresLogs (idx : BitVec 8) (f : State → PortId → State)
    (hf : ∀ k, f (s.withEarlier l) k = (f s k).withEarlier l) :
    IgnoresLogs l s fun s => linkCommand idx s (f s) := by
  simp only [IgnoresLogs, linkCommand, withEarlier_portOf?]
  split <;> simp [hf]

theorem linkHandler_ignoresLogs (k : BitVec 3) (f : State → PortId → State)
    (hf : ∀ k, f (s.withEarlier l) k = (f s k).withEarlier l) :
    IgnoresLogs l s fun s => linkHandler k s (f s) := by
  simp only [IgnoresLogs, linkHandler, withEarlier_portOf?, withEarlier_cfg]
  split <;> [skip; split] <;> simp [hf]

theorem ctrlCommand_ignoresLogs (f : State → State) (hf : f (s.withEarlier l) = (f s).withEarlier l) :
    IgnoresLogs l s fun s => ctrlCommand s (f s) := by
  simp [IgnoresLogs, ctrlCommand, hf]

theorem ctrlHandler_ignoresLogs (f : State → State) (hf : f (s.withEarlier l) = (f s).withEarlier l) :
    IgnoresLogs l s fun s => ctrlHandler s (f s) := by
  simp only [IgnoresLogs, ctrlHandler, withEarlier_cfg]
  split <;> simp [hf]

theorem hwPipeStep_ignoresLogs (idx : BitVec 8) (en : State → PipeId → Bool) (f : State → PipeId → State)
    (hen : ∀ j, en (s.withEarlier l) j = en s j) (hf : ∀ j, f (s.withEarlier l) j = (f s j).withEarlier l) :
    IgnoresLogs l s fun s => hwPipeStep idx s (en s) (f s) := by
  simp only [IgnoresLogs, hwPipeStep, withEarlier_pipeOf?, hen]
  split <;> [skip; split] <;> simp [hf]

theorem hwLinkStep_ignoresLogs (idx : BitVec 8) (f : State → PortId → State)
    (hf : ∀ k, f (s.withEarlier l) k = (f s k).withEarlier l) :
    IgnoresLogs l s fun s => hwLinkStep idx s (f s) := by
  simp only [IgnoresLogs, hwLinkStep, withEarlier_portOf?, withEarlier_cfg]
  split <;> [skip; split] <;> simp [hf]

/-! ### Every operation -/

theorem execConfigurePipe_ignoresLogs (idx : BitVec 8) (ty : TType) (d : UsbDir) (m : BitVec 11)
    (a : Option (BitVec 7)) : IgnoresLogs l s (execConfigurePipe idx ty d m a) := by
  simp only [IgnoresLogs, execConfigurePipe, withEarlier_pipeOf?, withEarlier_cfg, withEarlier_busy]
  split <;> [skip; split <;> [skip; split]] <;> simp

theorem execReleasePipe_ignoresLogs (idx : BitVec 8) : IgnoresLogs l s (execReleasePipe idx) := by
  simp only [IgnoresLogs, execReleasePipe, withEarlier_pipeOf?]
  split <;> simp

theorem execAcquirePort_ignoresLogs (idx : BitVec 8) (f : FPort) : IgnoresLogs l s (execAcquirePort idx f) := by
  simp only [IgnoresLogs, execAcquirePort, withEarlier_pipeOf?, withEarlier_pipe]
  split <;> [skip; split <;> [skip; split]] <;> simp [acquireResult]

theorem execRead_ignoresLogs (idx : BitVec 8) (b n c : Word) : IgnoresLogs l s (execRead idx b n c) := by
  simp only [IgnoresLogs, execRead, withEarlier_pipeOf?]
  split <;> simp

theorem execWrite_ignoresLogs (idx : BitVec 8) (b n c : Word) : IgnoresLogs l s (execWrite idx b n c) := by
  simp only [IgnoresLogs, execWrite, withEarlier_pipeOf?]
  split <;> simp

theorem execStop_ignoresLogs (idx : BitVec 8) : IgnoresLogs l s (execStop idx) := by
  simp only [IgnoresLogs, execStop, withEarlier_pipeOf?]
  split <;> simp

theorem execDmaStart_ignoresLogs (idx : BitVec 8) (b n : Word) (f : FPort) (c : Word) :
    IgnoresLogs l s (execDmaStart idx b n f c) := by
  simp only [IgnoresLogs, execDmaStart, withEarlier_pipeOf?]
  split <;> simp

theorem execUsbIrq_ignoresLogs : IgnoresLogs l s execUsbIrq := by
  simp only [IgnoresLogs, execUsbIrq, withEarlier_irqAsserted]
  split <;> simp

theorem dmaIrq_ignoresLogs (p : DPort) : IgnoresLogs l s (dmaIrq p) := by
  simp only [IgnoresLogs, dmaIrq, withEarlier_chan, modChan_withEarlier, withEarlier_dmaStale]
  split <;> [skip; split] <;> simp

theorem execDmaIrq_ignoresLogs (f : FPort) : IgnoresLogs l s (execDmaIrq f) := by
  simp only [IgnoresLogs, execDmaIrq, withEarlier_cfg, withEarlier_chan]
  split <;> [skip; split <;> [skip; split]]
  · rfl
  · rfl
  · rfl
  · exact dmaIrq_ignoresLogs _

theorem execHwRxPacket_ignoresLogs (idx : BitVec 8) (bs : List Byte) : IgnoresLogs l s (execHwRxPacket idx bs) := by
  unfold IgnoresLogs execHwRxPacket
  split
  · rfl
  · exact hwPipeStep_ignoresLogs idx (fun s j => s.canReceive j bs.length)
      (fun s j => (s.modPipe j fun q => { q with rxFifo := some bs }).setSts (.brdy j) true) (fun _ => rfl) fun j => by simp

theorem execHwSetup_ignoresLogs (bs : List Byte) : IgnoresLogs l s (execHwSetup bs) := by
  simp only [IgnoresLogs, execHwSetup, withEarlier_cfg]
  split <;> [skip; split] <;> simp

theorem execHwStatusDone_ignoresLogs : IgnoresLogs l s execHwStatusDone := by
  simp only [IgnoresLogs, execHwStatusDone, withEarlier_cfg, withEarlier_ctrl]
  split <;> [skip; split] <;> simp

theorem execHwSeqErr_ignoresLogs : IgnoresLogs l s execHwSeqErr := by
  simp only [IgnoresLogs, execHwSeqErr, withEarlier_cfg]
  split <;> simp

theorem setSts_pipe_ignoresLogs (idx : BitVec 8) (en : State → PipeId → Bool) (x : PipeId → Source)
    (hen : ∀ j, en (s.withEarlier l) j = en s j) :
    IgnoresLogs l s fun s => hwPipeStep idx s (en s) fun j => s.setSts (x j) true :=
  hwPipeStep_ignoresLogs idx en (fun s j => s.setSts (x j) true) hen fun j => setSts_withEarlier (x j) true

theorem setSts_link_ignoresLogs (idx : BitVec 8) (x : PortId → Source) :
    IgnoresLogs l s fun s => hwLinkStep idx s fun k => s.setSts (x k) true :=
  hwLinkStep_ignoresLogs idx (fun s k => s.setSts (x k) true) fun k => setSts_withEarlier (x k) true

theorem execHwStall_ignoresLogs (idx : BitVec 8) : IgnoresLogs l s (execHwStall idx) :=
  hwPipeStep_ignoresLogs idx State.canRespond
    (fun s j => (s.modPipe j fun q => { q with pid := .stall }).setSts (.nrdy j) true) (fun _ => rfl) fun j => by simp

theorem execDmaBlock_ignoresLogs (f : FPort) : IgnoresLogs l s (execDmaBlock f) := by
  simp only [IgnoresLogs, execDmaBlock, withEarlier_cfg, withEarlier_canMoveBlock]
  split <;> [skip; split <;> [skip; split]] <;> simp

theorem execHBrdy_ignoresLogs (p : BitVec 5) : IgnoresLogs l s (execHBrdy p) := by
  simp only [IgnoresLogs, execHBrdy, withEarlier_pipeOf?]
  split <;> simp

theorem execHBemp_ignoresLogs (p : BitVec 5) : IgnoresLogs l s (execHBemp p) := by
  simp only [IgnoresLogs, execHBemp, withEarlier_pipeOf?]
  split <;> simp

theorem execHNrdy_ignoresLogs (p : BitVec 5) : IgnoresLogs l s (execHNrdy p) := by
  simp only [IgnoresLogs, execHNrdy, withEarlier_pipeOf?]
  split <;> simp

theorem exec_ignoresLogs (i : Instr) : IgnoresLogs l s (exec i) := by
  cases i with
  | configurePipe idx ty d m a => exact execConfigurePipe_ignoresLogs idx ty d m a
  | releasePipe idx => exact execReleasePipe_ignoresLogs idx
  | acquirePort idx f => exact execAcquirePort_ignoresLogs idx f
  | read idx b n c => exact execRead_ignoresLogs idx b n c
  | write idx b n c => exact execWrite_ignoresLogs idx b n c
  | stop idx => exact execStop_ignoresLogs idx
  | dmaStart idx b n f c => exact execDmaStart_ignoresLogs idx b n f c
  | linkAttachProcess idx =>
    exact linkCommand_ignoresLogs idx (fun s k => linkAttachProcess k s) linkAttachProcess_withEarlier
  | linkBusReset idx => exact linkCommand_ignoresLogs idx (fun s k => linkBusReset k s) linkBusReset_withEarlier
  | linkSuspend idx => exact linkCommand_ignoresLogs idx (fun s k => linkSuspend k s) linkSuspend_withEarlier
  | linkResume idx => exact linkCommand_ignoresLogs idx (fun s k => linkResume k s) linkResume_withEarlier
  | linkSetAddress idx a =>
    exact linkCommand_ignoresLogs idx (fun s k => linkSetAddress k a s) fun k => linkSetAddress_withEarlier k a
  | ctrlAck => exact ctrlCommand_ignoresLogs ctrlAck ctrlAck_withEarlier
  | ctrlStall => exact ctrlCommand_ignoresLogs (fun s => (stallControl .stopped s).returns .ok) (by simp)
  | ctrlData b n c => exact ctrlCommand_ignoresLogs (ctrlData b n c) (ctrlData_withEarlier b n c)
  | usbIrq => exact execUsbIrq_ignoresLogs
  | dmaIrq f => exact execDmaIrq_ignoresLogs f
  | hwRxPacket idx bs => exact execHwRxPacket_ignoresLogs idx bs
  | hwTxReady idx => exact setSts_pipe_ignoresLogs idx State.canTransmit .brdy fun _ => rfl
  | hwNotReady idx => exact setSts_pipe_ignoresLogs idx State.canRespond .nrdy fun _ => rfl
  | hwStall idx => exact execHwStall_ignoresLogs idx
  | hwBufEmpty idx => exact setSts_pipe_ignoresLogs idx (fun s j => (s.pipe j).configured) .bemp fun _ => rfl
  | hwAttach idx => exact setSts_link_ignoresLogs idx .attach
  | hwDetach idx => exact setSts_link_ignoresLogs idx .detach
  | hwLinechg idx => exact setSts_link_ignoresLogs idx .linechg
  | hwSetup bs => exact execHwSetup_ignoresLogs bs
  | hwStatusDone => exact execHwStatusDone_ignoresLogs
  | hwSeqErr => exact execHwSeqErr_ignoresLogs
  | dmaBlock f => exact execDmaBlock_ignoresLogs f
  | hBrdy p => exact execHBrdy_ignoresLogs p
  | hBemp p => exact execHBemp_ignoresLogs p
  | hNrdy p => exact execHNrdy_ignoresLogs p
  | hAttach k => exact linkHandler_ignoresLogs k (fun s k => handleAttach k s) handleAttach_withEarlier
  | hDetach k => exact linkHandler_ignoresLogs k (fun s k => handleDetach k s) handleDetach_withEarlier
  | hLinechg k => exact linkHandler_ignoresLogs k (fun s k => handleLinechg k s) handleLinechg_withEarlier
  | hSetup => exact ctrlHandler_ignoresLogs handleSetup handleSetup_withEarlier
  | hStsdone => exact ctrlHandler_ignoresLogs handleStsdone handleStsdone_withEarlier
  | hSeqerr => exact ctrlHandler_ignoresLogs handleSeqerr handleSeqerr_withEarlier

/-- Settles O12: every read of the state, every update and so every operation does the same after earlier log entries. -/
theorem logsAreOutputs : Obligations.LogsAreOutputs :=
  ⟨fun i _ _ => exec_ignoresLogs i, fun _ => ⟨rfl, rfl, rfl, rfl, rfl, rfl⟩⟩


end Sys2Proof.Machine
end

section
/-! SUPPORT. The accesses of a FIFO port (R64, R66, R67): a word access carries the sum of its bytes, each at its byte's
place in the word. -/

namespace Sys2Proof.Machine

/-! ### The value of a word -/

theorem leValue_append (bs : List Byte) (b : Byte) : leValue (bs ++ [b]) = leValue bs + b.toNat * 2 ^ (8 * bs.length) := by
  induction bs with
  | nil => simp [leValue]
  | cons c bs ih =>
    simp only [List.cons_append, leValue, ih, List.length_cons, mul_add_one, pow_add]
    ring

/-- In a little-endian word byte `k` has weight `256 ^ k` (R64). -/
theorem leValue_eq_sum (bs : List Byte) :
    leValue bs = ((List.range bs.length).map fun k => (bs.getD k 0).toNat * 2 ^ (8 * k)).sum := by
  induction bs using List.reverseRecOn with
  | nil => rfl
  | append_singleton bs b ih =>
    have hbs : ∀ k ∈ List.range bs.length,
        ((bs ++ [b]).getD k 0).toNat * 2 ^ (8 * k) = (bs.getD k 0).toNat * 2 ^ (8 * k) := fun k hk => by
      rw [List.getD_append _ _ _ _ (List.mem_range.1 hk)]
    rw [leValue_append, ih, List.length_append, List.length_singleton, List.range_succ, List.map_append,
      List.map_congr_left hbs]
    simp

/-- In a big-endian word the first byte has the greatest weight (R64). -/
theorem leValue_reverse_eq_sum (bs : List Byte) :
    leValue bs.reverse = ((List.range bs.length).map fun k => (bs.getD k 0).toNat * 2 ^ (8 * (bs.length - 1 - k))).sum := by
  induction bs with
  | nil => rfl
  | cons b bs ih =>
    rw [List.reverse_cons, leValue_append, ih, List.length_cons, List.range_succ_eq_map, Nat.add_comm]
    simp [Function.comp_def, Nat.sub_sub, Nat.add_comm]

/-! ### The list of accesses -/

section Split

variable {p : FPort} {rw : Rw} {w : Nat} {e : Endian} {bs : List Byte}

theorem length_fifoSplit : (fifoSplit p rw w e bs).length = bs.length / w + bs.length % w := by
  have hrest : bs.length - bs.length / w * w = bs.length % w := by
    rw [Nat.mul_comm, ← Nat.mod_eq_sub_mul_div]
  simp [fifoSplit, hrest]

theorem fifoSplit_word {j : Nat} (hj : j < bs.length / w) :
    (fifoSplit p rw w e bs)[j]? = some ⟨p, rw, w, fifoValue e ((bs.drop (j * w)).take w)⟩ := by
  simp [fifoSplit, List.getElem?_append_left, hj]

theorem fifoSplit_byte {j : Nat} (hj : j < bs.length % w) :
    (fifoSplit p rw w e bs)[bs.length / w + j]? = some ⟨p, rw, 1, (bs.getD (bs.length / w * w + j) 0).toNat⟩ := by
  have hin : bs.length / w * w + j < bs.length := by
    have := Nat.div_add_mod' bs.length w
    omega
  simp [fifoSplit, List.getElem?_append_right, hin]

theorem length_word {j : Nat} (hj : j < bs.length / w) : ((bs.drop (j * w)).take w).length = w := by
  have hle : (j + 1) * w ≤ bs.length := (Nat.mul_le_mul_right w hj).trans (Nat.div_mul_le_self _ _)
  rw [Nat.add_one_mul] at hle
  simp only [List.length_take, List.length_drop]
  omega

/-- A sum over the bytes of word `j`, in the list the word is cut from. -/
theorem sum_word (j : Nat) (f : Byte → Nat → Nat) :
    ((List.range w).map fun k => f (((bs.drop (j * w)).take w).getD k 0) k).sum =
      ((List.range w).map fun k => f (bs.getD (j * w + k) 0) k).sum := by
  congr 1
  refine List.map_congr_left fun k hk => ?_
  have hk : k < w := List.mem_range.1 hk
  simp [hk]

theorem fifoValue_little_word {j : Nat} (hj : j < bs.length / w) :
    fifoValue .little ((bs.drop (j * w)).take w) =
      ((List.range w).map fun k => (bs.getD (j * w + k) 0).toNat * 2 ^ (8 * k)).sum := by
  rw [fifoValue, leValue_eq_sum, length_word hj]
  exact sum_word j fun b k => b.toNat * 2 ^ (8 * k)

theorem fifoValue_big_word {j : Nat} (hj : j < bs.length / w) :
    fifoValue .big ((bs.drop (j * w)).take w) =
      ((List.range w).map fun k => (bs.getD (j * w + k) 0).toNat * 2 ^ (8 * (w - 1 - k))).sum := by
  rw [fifoValue, leValue_reverse_eq_sum, length_word hj]
  exact sum_word j fun b k => b.toNat * 2 ^ (8 * (w - 1 - k))

end Split

/-- Settles O60: the words come first, each with the sum of its bytes by their places, then the bytes left over. -/
theorem fifoAccesses : Obligations.FifoAccesses := fun _ _ _ _ _ =>
  ⟨fun _ => length_fifoSplit,
    fun _ hj => ⟨by rw [fifoSplit_word hj, fifoValue_little_word hj], by rw [fifoSplit_word hj, fifoValue_big_word hj]⟩,
    fun _ _ => fifoSplit_byte⟩

end Sys2Proof.Machine
end

section
/-! SUPPORT. Which operations write buffer memory (R60): two do, the packet read of `H_BRDY` (R126) and the block read of
the DMA engine (R242), each by `MemWrite`. Every other operation leaves memory as it was. -/

namespace Sys2Proof.Machine

variable {s t u : State}

/-! ### Operations that leave memory alone -/

section Mem

variable {i : PipeId}

@[simp] theorem acquirePort_mem (f : FPort) : (acquirePort i f s).2.mem = s.mem := by
  by_cases h : s.CanAcquire i f
  · have ha : Acquired i f s (acquirePort i f s).2 := acquirePort_acquired f h
    unfold Acquired at ha
    split at ha
    · rw [ha]
    · exact ha.mem
  · exact congrArg (·.mem) (acquirePort_failed f h).2.rest

@[simp] theorem complete_mem (d : Dir) (r : Result) : (complete i d r s).mem = s.mem := by
  simp [complete_eq]

@[simp] theorem terminateAll_mem (r : Result) : (terminateAll i r s).mem = s.mem := by
  simp [terminateAll]

@[simp] theorem terminateIfBusy_mem (r : Result) : (terminateIfBusy i r s).mem = s.mem := by
  unfold terminateIfBusy
  split <;> simp

@[simp] theorem releasePipe_mem : (releasePipe i s).mem = s.mem := by
  simp [releasePipe]

@[simp] theorem acquireResult_mem (r : Bool × State) : (acquireResult i r).mem = r.2.mem := by
  unfold acquireResult
  split <;> simp

@[simp] theorem advanceSlot_mem (d : Dir) (n : Nat) : (advanceSlot i d n s).mem = s.mem := by
  simp [advanceSlot]

@[simp] theorem commit_mem (f : FPort) (b : Bool) : (commit f i b s).mem = s.mem := by
  simp [commit]

@[simp] theorem fifoWrite_mem (f : FPort) (bs : List Byte) : (fifoWrite f bs s).mem = s.mem := by
  simp [fifoWrite, logFifo]

@[simp] theorem fifoRead_mem (f : FPort) (n : Nat) : (fifoRead f i n s).2.mem = s.mem := by
  simp [fifoRead, logFifo]

@[simp] theorem writeOwned_mem : (writeOwned i s).mem = s.mem := by
  simp only [writeOwned]
  split <;> [skip; split] <;> simp

@[simp] theorem writeChunk_mem : (writeChunk i s).mem = s.mem := by
  simp only [writeChunk]
  split <;> simp

@[simp] theorem armCpu_mem (d : Dir) (b l c : Word) : (armCpu i d b l c s).mem = s.mem := by
  simp [armCpu]

@[simp] theorem pushFirst_mem (d : Dir) : (pushFirst i d s).mem = s.mem := by
  unfold pushFirst
  split <;> simp

@[simp] theorem startCommon_mem (d : Dir) (b l c : Word) : (startCommon i d b l c s).mem = s.mem := by
  simp only [startCommon]
  repeat' split
  all_goals simp

@[simp] theorem handleNrdy_mem : (handleNrdy i s).mem = s.mem := by
  simp only [handleNrdy, retryNotReady]
  repeat' split
  all_goals simp

@[simp] theorem armDma_mem (d : Dir) (b l c : Word) (p : DPort) : (armDma i d b l c p s).mem = s.mem := by
  simp [armDma]

@[simp] theorem dmaStart_mem (b l : Word) (p : DPort) (c : Word) : (dmaStart i b l p c s).mem = s.mem := by
  simp only [dmaStart]
  repeat' split
  all_goals simp

@[simp] theorem dmaAccount_mem (p : DPort) : (dmaAccount p s).mem = s.mem := by
  simp [dmaAccount]

@[simp] theorem dmaRemainder_mem (d : Dir) : (dmaRemainder i d s).mem = s.mem := by
  simp only [dmaRemainder]
  split <;> simp

@[simp] theorem dmaEnd_mem (p : DPort) (d : Dir) : (dmaEnd p i d s).mem = s.mem := by
  simp only [dmaEnd]
  split <;> [skip; split] <;> simp

@[simp] theorem dmaComplete_mem (p : DPort) (c : Chan) : (dmaComplete p c s).mem = s.mem := by
  simp only [dmaComplete]
  split <;> [skip; split] <;> simp

@[simp] theorem stallControl_mem (r : Result) : (stallControl r s).mem = s.mem := by
  simp [stallControl]

@[simp] theorem ctrlAck_mem : (ctrlAck s).mem = s.mem := by
  unfold ctrlAck
  split <;> simp

@[simp] theorem ctrlData_mem (b l c : Word) : (ctrlData b l c s).mem = s.mem := by
  unfold ctrlData ctrlDataResult
  split <;> [skip; split] <;> simp

@[simp] theorem handleSetup_mem : (handleSetup s).mem = s.mem := by
  simp [handleSetup]

@[simp] theorem handleStsdone_mem : (handleStsdone s).mem = s.mem := by
  unfold handleStsdone
  split <;> simp

@[simp] theorem handleAttach_mem (k : PortId) : (handleAttach k s).mem = s.mem :=
  (onlyLink_handleAttach.2 (.refl k s)).mem

@[simp] theorem handleLinechg_mem (k : PortId) : (handleLinechg k s).mem = s.mem :=
  (onlyLink_handleLinechg.2 (.refl k s)).mem

@[simp] theorem detachPipe_mem (a : BitVec 7) (s : State) : (detachPipe a s i).mem = s.mem := by
  unfold detachPipe
  split <;> [split; skip] <;> simp

theorem foldl_detachPipe_mem (a : BitVec 7) (l : List PipeId) (s : State) : (l.foldl (detachPipe a) s).mem = s.mem := by
  induction l generalizing s with
  | nil => rfl
  | cons j l ih => exact (ih _).trans (detachPipe_mem a s)

@[simp] theorem handleDetach_mem (k : PortId) : (handleDetach k s).mem = s.mem := by
  unfold handleDetach
  split <;> simp [foldl_detachPipe_mem]

end Mem

/-! ### Keeping the canonical form -/

/-- A memory in canonical form stays so. -/
def KeepsMemForm (s t : State) : Prop := Memory.wf s.mem = true → Memory.wf t.mem = true

theorem KeepsMemForm.of_eq (h : t.mem = s.mem) : KeepsMemForm s t := fun hs => h ▸ hs

theorem KeepsMemForm.trans (h : KeepsMemForm s t) (g : KeepsMemForm t u) : KeepsMemForm s u := g ∘ h

theorem foldl_keepsMemForm {α : Type} {f : State → α → State} (hf : ∀ s a, KeepsMemForm s (f s a)) (l : List α)
    (s : State) : KeepsMemForm s (l.foldl f s) := by
  induction l generalizing s with
  | nil => exact .of_eq rfl
  | cons a l ih => exact (hf s a).trans (ih (f s a))

theorem KeepsMemForm.of_memWrite {a : Word} {bs : List Byte} (h : t.mem = memWrite s.mem a bs) : KeepsMemForm s t :=
  fun hs => h ▸ wf_memWrite a bs hs

/-! ### The two writers of memory -/

theorem readOwned_mem (i : PipeId) (pkt : List Byte) : (readOwned i pkt s).mem =
    memWrite s.mem (s.pipe i).slotRx.buf
      (fifoRead .c i (min (s.pipe i).slotRx.remaining.toNat pkt.length) s).1 := by
  simp only [readOwned]
  split <;> [skip; split <;> [skip; split]] <;> simp

theorem moveBlock_mem_tx {p : DPort} (h : (s.chan p).dirn = .tx) : (moveBlock p s).mem = s.mem := by
  simp [moveBlock, h]

theorem moveBlock_mem_rx {p : DPort} (h : (s.chan p).dirn = .rx) :
    (moveBlock p s).mem = memWrite s.mem (s.chan p).addr (drawRxBlock (s.chan p).blockSize s).1 := by
  simp [moveBlock, h]

theorem moveBlock_keepsMemForm (p : DPort) : KeepsMemForm s (moveBlock p s) := by
  cases h : (s.chan p).dirn with
  | tx => exact .of_eq (moveBlock_mem_tx h)
  | rx => exact .of_memWrite (moveBlock_mem_rx h)

/-! ### The operations that use them -/

theorem readChunk_keepsMemForm (i : PipeId) : KeepsMemForm s (readChunk i s) := by
  have hport : KeepsMemForm s (acquirePort i .c s).2 := .of_eq (by simp)
  simp only [readChunk]
  split
  · exact .of_eq rfl
  · split
    · exact hport.trans (.of_memWrite (readOwned_mem i _))
    · exact .of_eq (by simp)

theorem handleBrdy_keepsMemForm (i : PipeId) : KeepsMemForm s (handleBrdy i s) := by
  have hcount : KeepsMemForm s (s.modPipe i fun q => { q with ignoreCnt := 0 }) := .of_eq rfl
  simp only [handleBrdy]
  split
  · exact .of_eq rfl
  · split
    · exact .of_eq (by simp)
    · exact hcount.trans (readChunk_keepsMemForm i)

theorem handler_keepsMemForm (x : Source) : KeepsMemForm s (handler x s) := by
  cases x with
  | brdy i => exact handleBrdy_keepsMemForm i
  | bemp i => exact .of_eq rfl
  | nrdy i => exact .of_eq handleNrdy_mem
  | attach k => exact .of_eq (handleAttach_mem k)
  | detach k => exact .of_eq (handleDetach_mem k)
  | linechg k => exact .of_eq (handleLinechg_mem k)
  | setup => exact .of_eq handleSetup_mem
  | stsdone => exact .of_eq handleStsdone_mem
  | seqerr => exact .of_eq (stallControl_mem .stall)

theorem deliver_keepsMemForm (s : State) (x : Source) : KeepsMemForm s (deliver s x) := by
  unfold deliver
  split
  · exact (KeepsMemForm.of_eq (setSts_mem s x false)).trans (handler_keepsMemForm x)
  · exact (handler_keepsMemForm x).trans (.of_eq (setSts_mem _ x false))

theorem dispatch_keepsMemForm : KeepsMemForm s (dispatch s) :=
  foldl_keepsMemForm (fun s _ => foldl_keepsMemForm deliver_keepsMemForm _ s) allRegs s

/-! ### Every operation -/

theorem execConfigurePipe_mem (idx : BitVec 8) (ty : TType) (d : UsbDir) (m : BitVec 11) (a : Option (BitVec 7)) :
    NextMeets (·.mem = s.mem) (execConfigurePipe idx ty d m a s) := by
  unfold execConfigurePipe
  split <;> [skip; split <;> [skip; split]] <;> simp

theorem execReleasePipe_mem (idx : BitVec 8) : NextMeets (·.mem = s.mem) (execReleasePipe idx s) := by
  unfold execReleasePipe
  split <;> simp

theorem execAcquirePort_mem (idx : BitVec 8) (f : FPort) : NextMeets (·.mem = s.mem) (execAcquirePort idx f s) := by
  unfold execAcquirePort
  split <;> [skip; split <;> [skip; split]] <;> simp

theorem execRead_mem (idx : BitVec 8) (b l c : Word) : NextMeets (·.mem = s.mem) (execRead idx b l c s) := by
  unfold execRead
  split <;> simp

theorem execWrite_mem (idx : BitVec 8) (b l c : Word) : NextMeets (·.mem = s.mem) (execWrite idx b l c s) := by
  unfold execWrite
  split <;> simp

theorem execStop_mem (idx : BitVec 8) : NextMeets (·.mem = s.mem) (execStop idx s) := by
  unfold execStop
  split <;> simp

theorem execDmaStart_mem (idx : BitVec 8) (b l : Word) (f : FPort) (c : Word) :
    NextMeets (·.mem = s.mem) (execDmaStart idx b l f c s) := by
  unfold execDmaStart
  split <;> [split; skip; skip] <;> simp

theorem execUsbIrq_keepsMemForm : NextMeets (KeepsMemForm s) (execUsbIrq s) := by
  unfold execUsbIrq
  split <;> simp [dispatch_keepsMemForm]

theorem dmaIrq_mem (p : DPort) : NextMeets (·.mem = s.mem) (dmaIrq p s) := by
  simp only [dmaIrq]
  split <;> [skip; split] <;> simp

theorem execDmaIrq_mem (f : FPort) : NextMeets (·.mem = s.mem) (execDmaIrq f s) := by
  unfold execDmaIrq
  split <;> [skip; split <;> [skip; split]] <;> simp [dmaIrq_mem]

theorem execDmaBlock_keepsMemForm (f : FPort) : NextMeets (KeepsMemForm s) (execDmaBlock f s) := by
  unfold execDmaBlock
  split <;> [skip; split <;> [skip; split]] <;> simp [moveBlock_keepsMemForm]

theorem execHBrdy_keepsMemForm (p : BitVec 5) : NextMeets (KeepsMemForm s) (execHBrdy p s) := by
  unfold execHBrdy
  split <;> simp [handleBrdy_keepsMemForm]

theorem execHBemp_mem (p : BitVec 5) : NextMeets (·.mem = s.mem) (execHBemp p s) := by
  unfold execHBemp handleBemp
  split <;> simp

theorem execHNrdy_mem (p : BitVec 5) : NextMeets (·.mem = s.mem) (execHNrdy p s) := by
  unfold execHNrdy
  split <;> simp

theorem execHwRxPacket_mem (idx : BitVec 8) (bs : List Byte) : NextMeets (·.mem = s.mem) (execHwRxPacket idx bs s) := by
  unfold execHwRxPacket
  split
  · exact nextMeets_refused _
  · exact hwPipeStep_meets fun _ => by simp

theorem execHwSetup_mem (bs : List Byte) : NextMeets (·.mem = s.mem) (execHwSetup bs s) := by
  unfold execHwSetup
  split <;> [skip; split] <;> simp

theorem execHwStatusDone_mem : NextMeets (·.mem = s.mem) (execHwStatusDone s) := by
  unfold execHwStatusDone
  split <;> [skip; split] <;> simp

theorem execHwSeqErr_mem : NextMeets (·.mem = s.mem) (execHwSeqErr s) := by
  unfold execHwSeqErr
  split <;> simp

/-- The operations that may write memory: the two writers, and the dispatcher, which calls the handler of `H_BRDY`. -/
def mayWriteMem : Instr → Bool
  | .usbIrq => true
  | .dmaBlock _ => true
  | .hBrdy _ => true
  | _ => false

theorem exec_mem (i : Instr) (hi : mayWriteMem i = false) : NextMeets (·.mem = s.mem) (exec i s) := by
  cases i with
  | configurePipe idx ty d m a => exact execConfigurePipe_mem idx ty d m a
  | releasePipe idx => exact execReleasePipe_mem idx
  | acquirePort idx f => exact execAcquirePort_mem idx f
  | read idx b l c => exact execRead_mem idx b l c
  | write idx b l c => exact execWrite_mem idx b l c
  | stop idx => exact execStop_mem idx
  | dmaStart idx b l f c => exact execDmaStart_mem idx b l f c
  | linkAttachProcess idx =>
    exact linkCommand_meets (fun _ => rfl) fun k => (onlyLink_linkAttachProcess.2 (.refl k s)).mem
  | linkBusReset idx => exact linkCommand_meets (fun _ => rfl) fun k => (onlyLink_linkBusReset.2 (.refl k s)).mem
  | linkSuspend idx => exact linkCommand_meets (fun _ => rfl) fun k => (onlyLink_linkSuspend.2 (.refl k s)).mem
  | linkResume idx => exact linkCommand_meets (fun _ => rfl) fun k => (onlyLink_linkResume.2 (.refl k s)).mem
  | linkSetAddress idx a =>
    exact linkCommand_meets (fun _ => rfl) fun k => ((onlyLink_linkSetAddress a).2 (.refl k s)).mem
  | ctrlAck => exact ctrlCommand_meets rfl ctrlAck_mem
  | ctrlStall => exact ctrlCommand_meets rfl (stallControl_mem .stopped)
  | ctrlData b l c => exact ctrlCommand_meets rfl (ctrlData_mem b l c)
  | dmaIrq f => exact execDmaIrq_mem f
  | hwRxPacket idx bs => exact execHwRxPacket_mem idx bs
  | hwTxReady idx => exact hwPipeStep_meets fun _ => by simp
  | hwNotReady idx => exact hwPipeStep_meets fun _ => by simp
  | hwStall idx => exact hwPipeStep_meets fun _ => by simp
  | hwBufEmpty idx => exact hwPipeStep_meets fun _ => by simp
  | hwAttach idx => exact hwLinkStep_meets fun _ => by simp
  | hwDetach idx => exact hwLinkStep_meets fun _ => by simp
  | hwLinechg idx => exact hwLinkStep_meets fun _ => by simp
  | hwSetup bs => exact execHwSetup_mem bs
  | hwStatusDone => exact execHwStatusDone_mem
  | hwSeqErr => exact execHwSeqErr_mem
  | hBemp p => exact execHBemp_mem p
  | hNrdy p => exact execHNrdy_mem p
  | hAttach k => exact linkHandler_meets handleAttach_mem
  | hDetach k => exact linkHandler_meets handleDetach_mem
  | hLinechg k => exact linkHandler_meets handleLinechg_mem
  | hSetup => exact ctrlHandler_meets handleSetup_mem
  | hStsdone => exact ctrlHandler_meets handleStsdone_mem
  | hSeqerr => exact ctrlHandler_meets (stallControl_mem .stall)
  | usbIrq | dmaBlock _ | hBrdy _ => cases hi

theorem exec_keepsMemForm (i : Instr) : NextMeets (KeepsMemForm s) (exec i s) := by
  cases hi : mayWriteMem i with
  | false => exact fun t ht => .of_eq (exec_mem i hi t ht)
  | true =>
    cases i with
    | usbIrq => exact execUsbIrq_keepsMemForm
    | dmaBlock f => exact execDmaBlock_keepsMemForm f
    | hBrdy p => exact execHBrdy_keepsMemForm p
    | _ => cases hi

theorem step_keepsMemForm : NextMeets (KeepsMemForm s) (step s) := by
  cases hs : s.inbox with
  | nil => exact step_of_inbox_nil hs ▸ nextMeets_next.2 (.of_eq rfl)
  | cons x rest =>
    rw [step_of_inbox_cons hs]
    exact runInput_meets (s := s.setInbox rest) exec_keepsMemForm fun _ => .of_eq rfl

/-- Settles O23: memory is written by `MemWrite` only, which keeps the form. -/
theorem stepKeepsMemoryForm : Obligations.StepKeepsMemoryForm := fun _ t hs h => step_keepsMemForm t h hs

end Sys2Proof.Machine
end

section
/-! SUPPORT. The fields of an encoded record (R81), and that the decoder reads every encoding back (R80 to R83). -/

namespace Sys2Proof

/-! ### The fields of an encoded record -/

section Fields

variable (op idx : BitVec 8) (f t : BitVec 2) (d : BitVec 1) (w1 w2 w3 w4 : Word) (bs : List Byte)

@[simp] theorem packed_op : (⟨packW0 op idx f t d, w1, w2, w3, w4, bs⟩ : Record).op = op := pack_op ..

@[simp] theorem packed_idx : (⟨packW0 op idx f t d, w1, w2, w3, w4, bs⟩ : Record).idx = idx := pack_idx ..

@[simp] theorem packed_fport : (⟨packW0 op idx f t d, w1, w2, w3, w4, bs⟩ : Record).fport = f := pack_fport ..

@[simp] theorem packed_ttype : (⟨packW0 op idx f t d, w1, w2, w3, w4, bs⟩ : Record).ttype = t := pack_ttype ..

@[simp] theorem packed_dir : (⟨packW0 op idx f t d, w1, w2, w3, w4, bs⟩ : Record).dir = d := pack_dir ..

@[simp] theorem packed_rsv0 : (⟨packW0 op idx f t d, w1, w2, w3, w4, bs⟩ : Record).rsv0 = 0 := pack_rsv0 ..

variable (w0 : Word) (mps : BitVec 11) (dev : BitVec 7) (dav : BitVec 1)

@[simp] theorem packed_mps : (⟨w0, w1, w2, w3, packW4 mps dev dav, bs⟩ : Record).mps = mps := pack_mps ..

@[simp] theorem packed_devaddr : (⟨w0, w1, w2, w3, packW4 mps dev dav, bs⟩ : Record).devaddr = dev :=
  pack_devaddr ..

@[simp] theorem packed_dav : (⟨w0, w1, w2, w3, packW4 mps dev dav, bs⟩ : Record).dav = dav := pack_dav ..

@[simp] theorem packed_rsv4 : (⟨w0, w1, w2, w3, packW4 mps dev dav, bs⟩ : Record).rsv4 = 0 := pack_rsv4 ..

end Fields

@[simp] theorem headRecord_eq (op idx : BitVec 8) (f : BitVec 2) :
    headRecord op idx f = ⟨packW0 op idx f 0 0, 0, 0, 0, packW4 0 0 0, []⟩ := rfl

@[simp] theorem xferRecord_eq (op idx : BitVec 8) (f : BitVec 2) (buf len cb : Word) :
    xferRecord op idx f buf len cb = ⟨packW0 op idx f 0 0, buf, len, cb, packW4 0 0 0, []⟩ := rfl

@[simp] theorem dataRecord_eq (op idx : BitVec 8) (bs : List Byte) :
    dataRecord op idx bs = ⟨packW0 op idx 0 0 0, 0, BitVec.ofNat 32 bs.length, 0, packW4 0 0 0, bs⟩ := rfl

/-! ### Decoding an encoding -/

theorem decodeSource_pipe (p : BitVec 5) : decodeSource (0#3 ++ p) = .instr (.hBrdy p) ∧
    decodeSource (1#3 ++ p) = .instr (.hBemp p) ∧ decodeSource (2#3 ++ p) = .instr (.hNrdy p) := by
  revert p; decide

theorem decodeSource_link (k : BitVec 3) : decodeSource (3#3 ++ k ++ 0#2) = .instr (.hAttach k) ∧
    decodeSource (3#3 ++ k ++ 1#2) = .instr (.hDetach k) ∧ decodeSource (3#3 ++ k ++ 2#2) = .instr (.hLinechg k) := by
  revert k; decide

/-- The decoder reads the encoding's fields back; only a byte list needs the operation well formed, to fit `w2`. -/
theorem decode_encode {c : Cfg} (i : Instr) (h : i.wellFormed c = true) : decode (encode i) = .instr i := by
  cases i with
  | configurePipe p t d m a =>
    cases a <;> simp [encode, decode, decodeRecord, Record.checked, Record.fits, Record.dev, configureW4]
  | releasePipe | read | write | stop | linkAttachProcess | linkBusReset | linkSuspend | linkResume | linkSetAddress
  | ctrlAck | ctrlStall | ctrlData | usbIrq | hwTxReady | hwNotReady | hwStall | hwBufEmpty | hwAttach | hwDetach
  | hwLinechg | hwStatusDone | hwSeqErr => simp [encode, decode, decodeRecord, Record.checked, Record.fits]
  | acquirePort | dmaStart | dmaIrq | dmaBlock =>
    simp [encode, decode, decodeRecord, Record.checkedPort, Record.checked, Record.fits]
  | hwRxPacket _ bs | hwSetup bs =>
    have hlen : bs.length < 2 ^ 32 := by simp_all [Instr.wellFormed]
    simpa [encode, decode, decodeRecord, Record.checked, Record.fits] using fun h' => absurd hlen (Nat.not_lt.2 h')
  | hBrdy p => exact (decodeSource_pipe p).1
  | hBemp p => exact (decodeSource_pipe p).2.1
  | hNrdy p => exact (decodeSource_pipe p).2.2
  | hAttach k => exact (decodeSource_link k).1
  | hDetach k => exact (decodeSource_link k).2.1
  | hLinechg k => exact (decodeSource_link k).2.2
  | hSetup | hStsdone | hSeqerr => rfl

/-- Settles O1, by `decode_encode`. -/
theorem decodeOfEncode : Obligations.DecodeOfEncode := fun _ i h => decode_encode i h

/-- Settles O3: four closed evaluations, each of one encoding or decoding. -/
theorem specWordsDecode : Obligations.SpecWordsDecode := by
  unfold Obligations.SpecWordsDecode
  decide

end Sys2Proof
end

section
/-! SUPPORT. What the decoder can answer: a record that decodes is, up to the address bits beside `dav = 0` (log entry 9),
the encoding of what it decodes to (R81 to R83); and a source id is, without exception. -/

namespace Sys2Proof

variable {r : Record} {u : Uses} {i : Instr}

/-! ### Source ids -/

theorem sid_eq_append (sid : BitVec 8) :
    sid = BitVec.ofNat 3 (sid.extractLsb' 5 3).toNat ++ sid.extractLsb' 0 5 := by
  rw [BitVec.ofNat_toNat, BitVec.setWidth_eq]
  exact (BitVec.extractLsb'_append_extractLsb' (w := 3) (len := 5)).symm

theorem sid_eq_append_link (sid : BitVec 8) :
    sid = BitVec.ofNat 3 (sid.extractLsb' 5 3).toNat ++ sid.extractLsb' 2 3 ++
      BitVec.ofNat 2 (sid.extractLsb' 0 2).toNat := by
  simp only [BitVec.ofNat_toNat, BitVec.setWidth_eq]
  rw [BitVec.extractLsb'_append_extractLsb'_eq_extractLsb' (start₁ := 2) (start₂ := 5) rfl]
  exact (BitVec.extractLsb'_append_extractLsb' (w := 6) (len := 2)).symm

theorem sid_eq_append_ctrl (sid : BitVec 8) :
    sid = BitVec.ofNat 3 (sid.extractLsb' 5 3).toNat ++ BitVec.ofNat 5 (sid.extractLsb' 0 5).toNat := by
  simpa only [BitVec.ofNat_toNat, BitVec.setWidth_eq] using sid_eq_append sid

theorem encode_of_decodeSource {sid : BitVec 8} (h : decodeSource sid = .instr i) : encode i = .source sid := by
  unfold decodeSource at h
  split at h
  case h_1 hreg | h_2 hreg | h_3 hreg =>
    cases h
    have hsid := sid_eq_append sid
    rw [hreg] at hsid
    exact congrArg Input.source hsid.symm
  case h_4 hreg =>
    have hsid := sid_eq_append_link sid
    rw [hreg] at hsid
    split at h
    case h_1 hbit | h_2 hbit | h_3 hbit =>
      cases h
      rw [hbit] at hsid
      exact congrArg Input.source hsid.symm
    case h_4 => cases h
  case h_5 hreg =>
    have hsid := sid_eq_append_ctrl sid
    rw [hreg] at hsid
    split at h
    case h_1 hbit | h_2 hbit | h_3 hbit =>
      cases h
      rw [hbit] at hsid
      exact congrArg Input.source hsid.symm
    case h_4 => cases h
  case h_6 => cases h

/-! ### Records -/

/-- The record with operation code `op` that has of `r` the fields `u` names and zero in every other (R81). -/
def Record.only (r : Record) (op : BitVec 8) (u : Uses) : Record where
  w0 := packW0 op (bif u.idx then r.idx else 0) (bif u.fport then r.fport else 0) (bif u.ttype then r.ttype else 0)
    (bif u.dir then r.dir else 0)
  w1 := bif u.buf then r.w1 else 0
  w2 := bif u.data then BitVec.ofNat 32 r.data.length else bif u.len then r.w2 else 0
  w3 := bif u.cb then r.w3 else 0
  w4 := packW4 (bif u.mps then r.mps else 0) (bif u.devaddr then r.devaddr else 0) (bif u.dav then r.dav else 0)
  data := bif u.data then r.data else []

theorem cond_eq_of_or {α : Type} [BEq α] [LawfulBEq α] {b : Bool} {x z : α} (h : (b || x == z) = true) :
    (bif b then x else z) = x := by
  cases b <;> simp_all

/-- A record that fits its operation is made of the fields the operation uses. -/
theorem Record.only_of_fits (h : r.fits u = true) : r.only r.op u = r := by
  simp only [Record.fits, Bool.and_eq_true] at h
  obtain ⟨⟨⟨⟨⟨⟨⟨⟨⟨⟨⟨⟨hr0, hr4⟩, hidx⟩, hfport⟩, httype⟩, hdir⟩, hbuf⟩, hlen⟩, hcb⟩, hmps⟩, hdev⟩, hdav⟩, hdata⟩ := h
  have hw0 : packW0 r.op r.idx r.fport r.ttype r.dir = r.w0 := packW0_eta _ (eq_of_beq hr0)
  have hw4 : packW4 r.mps r.devaddr r.dav = r.w4 := packW4_eta _ (eq_of_beq hr4)
  have hw2 : (bif u.data then BitVec.ofNat 32 r.data.length else bif u.len then r.w2 else 0) = r.w2 ∧
      (bif u.data then r.data else []) = r.data := by
    cases hu : u.data with
    | false =>
      simp only [hu, Bool.or_false, Bool.false_eq_true, if_false, List.isEmpty_iff] at hlen hdata
      exact ⟨cond_eq_of_or hlen, hdata.symm⟩
    | true =>
      have hlen : r.w2.toNat = r.data.length := by simpa [hu] using hdata
      simp [← hlen]
  obtain ⟨hw2, hbytes⟩ := hw2
  simp only [Record.only, cond_eq_of_or hidx, cond_eq_of_or hfport, cond_eq_of_or httype, cond_eq_of_or hdir,
    cond_eq_of_or hbuf, cond_eq_of_or hcb, cond_eq_of_or hmps, cond_eq_of_or hdev, cond_eq_of_or hdav, hw0, hw2, hw4,
    hbytes]

/-- `r` with `w4` as the encoder writes it: the address bits that `dav = 0` makes meaningless are zero (log entry 9). -/
def Record.canon (r : Record) : Record :=
  { r with w4 := if r.op = 0x01 then configureW4 r.mps r.dev else r.w4 }

theorem Record.canon_of_op_ne (h : r.op ≠ 0x01) : r.canon = r := by rw [Record.canon, if_neg h]

theorem configureW4_dev (h : r.dav = 0 → r.devaddr = 0) : configureW4 r.mps r.dev = packW4 r.mps r.devaddr r.dav := by
  unfold Record.dev
  split
  · next hdav => rw [hdav]; rfl
  · next hdav =>
    have hdav : r.dav = 0 := (BitVec.eq_zero_or_eq_one r.dav).resolve_right hdav
    rw [hdav, h hdav]; rfl

theorem Record.canon_eq_self (h4 : r.rsv4 = 0) (h : r.op = 0x01 → r.dav = 0 → r.devaddr = 0) : r.canon = r := by
  by_cases hop : r.op = 0x01
  · simp only [Record.canon, hop, if_true, configureW4_dev (h hop)]
    rw [show packW4 r.mps r.devaddr r.dav = r.w4 from packW4_eta _ h4]
  · exact Record.canon_of_op_ne hop

/-- What the decoder can answer to a record whose operation code is in R82: a defect, or the operation whose encoding the
record is. -/
def Record.Answer (r : Record) (d : Decoded) : Prop :=
  d = r.defect ∨ ∃ i, d = .instr i ∧ r.rsv4 = 0 ∧ encode i = .record r.canon

theorem answer_checked (h : r.fits u = true → encode i = .record r.canon) : r.Answer (r.checked u i) := by
  unfold Record.checked
  split
  · next hu =>
    refine .inr ⟨i, rfl, ?_, h hu⟩
    simp_all [Record.fits]
  · exact .inl rfl

theorem answer_checkedPort {mk : FPort → Instr}
    (h : ∀ p : FPort, r.fport = p.code → r.fits u = true → encode (mk p) = .record r.canon) :
    r.Answer (r.checkedPort u mk) := by
  unfold Record.checkedPort
  split
  · next p hp => exact answer_checked (h p (FPort.code_ofCode? hp).symm)
  · exact .inl rfl

/-- A row of the decoder's table other than `CONFIGURE_PIPE`: it is enough that the operation's encoding is made of the
row's fields. -/
theorem encode_eq_canon {n : Nat} (hop : r.op.toNat = n) (hn : n ≠ 1)
    (h : encode i = .record (r.only (BitVec.ofNat 8 n) u)) (hu : r.fits u = true) : encode i = .record r.canon := by
  have hne : r.op ≠ 0x01 := fun h1 => hn (by rw [← hop, h1]; rfl)
  rw [h, Record.canon_of_op_ne hne, ← hop, BitVec.ofNat_toNat, BitVec.setWidth_eq, Record.only_of_fits hu]

/-- The row of `CONFIGURE_PIPE`, whose `w4` the encoder writes from the device address operand. -/
theorem encode_configurePipe_eq_canon (hop : r.op = 0x01)
    (hu : r.fits { idx := true, ttype := true, dir := true, mps := true, devaddr := true, dav := true } = true) :
    encode (.configurePipe r.idx (.ofCode r.ttype) (.ofCode r.dir) r.mps r.dev) = .record r.canon := by
  have hr := congrArg (fun x : Record => { x with w4 := configureW4 r.mps r.dev }) (Record.only_of_fits hu)
  rw [Record.canon, if_pos hop, ← hr, hop]
  simp [encode, Record.only, TType.code_ofCode, UsbDir.code_ofCode]

/-- Each row of the decoder's table reads the operand fields that the encoder writes (R82). -/
theorem answer_decodeRecord (h : r.op.toNat ∈ tableOps) : r.Answer (decodeRecord r) := by
  unfold decodeRecord
  split
  case h_1 hop => exact answer_checked (encode_configurePipe_eq_canon (BitVec.eq_of_toNat_eq hop))
  case h_3 hop | h_7 hop | h_17 hop | h_29 hop =>
    refine answer_checkedPort fun p hp => encode_eq_canon hop (by decide) ?_
    simp [encode, Record.only, hp]
  case h_30 => simp_all [tableOps]
  all_goals
    next hop => exact answer_checked (encode_eq_canon hop (by decide) (by simp [encode, Record.only]))

theorem decodeRecord_of_notMem (h : r.op.toNat ∉ tableOps) : decodeRecord r = r.unknown := by
  unfold decodeRecord
  split
  case h_30 => rfl
  all_goals simp_all [tableOps]

theorem Record.defect_ne_instr : r.defect ≠ .instr i := by
  unfold Record.defect
  split <;> simp

theorem Record.unknown_ne_instr : r.unknown ≠ .instr i := by
  unfold Record.unknown
  split <;> simp

theorem encode_of_decodeRecord (h : decodeRecord r = .instr i) : r.rsv4 = 0 ∧ encode i = .record r.canon := by
  by_cases hop : r.op.toNat ∈ tableOps
  · obtain hd | ⟨j, hj, h4, he⟩ := answer_decodeRecord hop
    · exact absurd (hd.symm.trans h) Record.defect_ne_instr
    · cases hj.symm.trans h
      exact ⟨h4, he⟩
  · exact absurd ((decodeRecord_of_notMem hop).symm.trans h) Record.unknown_ne_instr

/-- Settles O2: a record that decodes is its operation's encoding up to the address bits beside `dav = 0`. -/
theorem encodeOfDecode : Obligations.EncodeOfDecode := by
  refine ⟨fun r i h hdev => ?_, fun sid i h => encode_of_decodeSource h⟩
  obtain ⟨h4, he⟩ := encode_of_decodeRecord h
  rw [he, Record.canon_eq_self h4 hdev]

end Sys2Proof
end

section
/-! SUPPORT. Defects (R87): a record is defective only if it does not decode or decodes to an operation that is not well
formed, and such an operation has no effect. -/

namespace Sys2Proof

variable {r : Record} {i : Instr} {c : Cfg}

/-! ### The format and the defects of an encoding -/

theorem FPort.code_ne_three (p : FPort) : p.code ≠ 3#2 := by cases p <;> decide

/-- The encoding of an operation carries the bits of its format (R80). -/
theorem encode_formatBits (i : Instr) : (encode i).formatBits? = i.format.bits? := by
  cases i <;> simp [encode, Input.formatBits?, Instr.format, Format.bits?]

/-- The encoding of a well-formed operation has none of the defects of R87. -/
theorem encode_not_defective (hw : i.wellFormed c = true) (he : encode i = .record r) : ¬ r.Defective c := by
  cases i with
  | hBrdy | hBemp | hNrdy | hAttach | hDetach | hLinechg | hSetup | hStsdone | hSeqerr => cases he
  | configurePipe p t d m a =>
    cases he
    cases a <;>
    · simp [Instr.wellFormed, Cfg.validPipe, Record.Defective, Record.UnusedSet, pipeOps, linkOps, fportOps, transferOps,
        dataOps, configureW4] at hw ⊢
      omega
  | _ =>
    cases he
    simp_all [Instr.wellFormed, Cfg.validPipe, Cfg.validPort, Record.Defective, Record.UnusedSet, pipeOps, linkOps,
      fportOps, transferOps, dataOps, FPort.code_ne_three]

/-! ### Defects of a record whose meaningless address bits are cleared -/

section Canon

variable (r : Record)

@[simp] theorem Record.canon_op : r.canon.op = r.op := rfl

@[simp] theorem Record.canon_idx : r.canon.idx = r.idx := rfl

@[simp] theorem Record.canon_fport : r.canon.fport = r.fport := rfl

@[simp] theorem Record.canon_rsv0 : r.canon.rsv0 = r.rsv0 := rfl

@[simp] theorem Record.canon_w1 : r.canon.w1 = r.w1 := rfl

@[simp] theorem Record.canon_w2 : r.canon.w2 = r.w2 := rfl

@[simp] theorem Record.canon_w3 : r.canon.w3 = r.w3 := rfl

@[simp] theorem Record.canon_mps : r.canon.mps = r.mps := by
  unfold Record.canon
  split
  · cases r.dev <;> exact pack_mps ..
  · rfl

end Canon

theorem Record.canon_defective (h4 : r.rsv4 = 0) (h : r.Defective c) : r.canon.Defective c := by
  by_cases hop : r.op = 0x01
  · simp [Record.Defective, Record.UnusedSet, hop, h4, pipeOps, linkOps, fportOps, transferOps, dataOps] at h ⊢
    tauto
  · rwa [Record.canon_of_op_ne hop]

end Sys2Proof

namespace Sys2Proof.Machine

variable {s : State} {i : Instr}

/-! ### Operations that are not well formed -/

theorem pipeOf?_eq_none_iff {n : Nat} : s.pipeOf? n = none ↔ s.cfg.validPipe n = false := by
  simp only [State.pipeOf?, Cfg.validPipe]
  split <;> simp [*]

theorem portOf?_eq_none_iff {n : Nat} : s.portOf? n = none ↔ s.cfg.validPort n = false := by
  simp only [State.portOf?, Cfg.validPort]
  split <;> simp [*]

/-- What becomes of an operation that is not well formed, by its format (R83, R87). -/
def malformed (i : Instr) (s : State) : Host.Outcome State Fault Refusal :=
  match i.format with
  | .cmd => .next (s.returns .invalidArg)
  | .irq => .refused .notAStep
  | .env => .refused .notAStep
  | .evt => .refused .reservedSource

/-- An operation that is not well formed has no other effect than its format's answer to a defect. -/
theorem exec_of_not_wellFormed (h : i.wellFormed s.cfg = false) : exec i s = malformed i s := by
  cases i with
  | configurePipe p t d m a =>
    simp only [exec, execConfigurePipe]
    split
    · rfl
    · next j hj =>
      have hv : s.cfg.validPipe p.toNat = true := by
        rw [← Bool.not_eq_false, ← pipeOf?_eq_none_iff, hj]; simp
      have hargs : configureArgsOk s.cfg.mode j t d m a = false := by
        unfold configureArgsOk
        simp_all [Instr.wellFormed]
      rw [if_pos hargs]
      rfl
  | releasePipe | acquirePort | read | write | stop | dmaStart =>
    simp [exec, malformed, Instr.format, execReleasePipe, execAcquirePort, execRead, execWrite, execStop, execDmaStart,
      pipeOf?_eq_none_iff.2 h]
  | linkAttachProcess | linkBusReset | linkSuspend | linkResume | linkSetAddress =>
    simp [exec, malformed, Instr.format, execLinkAttachProcess, execLinkBusReset, execLinkSuspend, execLinkResume,
      execLinkSetAddress, linkCommand, portOf?_eq_none_iff.2 h]
  | hwRxPacket p bs =>
    simp only [exec, execHwRxPacket]
    split
    · rfl
    · next hlen =>
      have hv : s.cfg.validPipe p.toNat = false := by
        simpa only [Instr.wellFormed, decide_eq_true (Nat.not_le.1 hlen), Bool.and_true] using h
      simp [malformed, Instr.format, hwPipeStep, pipeOf?_eq_none_iff.2 hv]
  | hwTxReady | hwNotReady | hwStall | hwBufEmpty =>
    simp [exec, malformed, Instr.format, execHwTxReady, execHwNotReady, execHwStall, execHwBufEmpty, hwPipeStep,
      pipeOf?_eq_none_iff.2 h]
  | hwAttach | hwDetach | hwLinechg =>
    simp [exec, malformed, Instr.format, execHwAttach, execHwDetach, execHwLinechg, hwLinkStep, portOf?_eq_none_iff.2 h]
  | hwSetup bs =>
    have hlen : bs.length ≠ 8 := by simpa [Instr.wellFormed] using h
    simp [exec, malformed, Instr.format, execHwSetup, setupOf?, hlen]
  | dmaIrq f | dmaBlock f =>
    have hf : f.dma? = none := by simpa [Instr.wellFormed] using h
    simp [exec, malformed, Instr.format, execDmaIrq, execDmaBlock, hf]
  | hBrdy | hBemp | hNrdy =>
    simp [exec, malformed, Instr.format, execHBrdy, execHBemp, execHNrdy, pipeOf?_eq_none_iff.2 h]
  | hAttach | hDetach | hLinechg =>
    simp [exec, malformed, Instr.format, execHAttach, execHDetach, execHLinechg, linkHandler, portOf?_eq_none_iff.2 h]
  | ctrlAck | ctrlStall | ctrlData | usbIrq | hwStatusDone | hwSeqErr | hSetup | hStsdone | hSeqerr => cases h

/-! ### Defective records -/

/-- The answer to a record with a defect (R87). -/
def rejected (r : Record) (s : State) : Host.Outcome State Fault Refusal :=
  if r.w0.extractLsb' 6 2 = 0 then .next (s.returns .invalidArg) else .refused .notAStep

theorem runInput_of_defect {r : Record} (h : decodeRecord r = r.defect) : runInput (.record r) s = rejected r s := by
  unfold rejected
  split
  · next hb => simp only [runInput, decode, h, Record.defect, if_pos hb]
  · next hb => simp only [runInput, decode, h, Record.defect, if_neg hb, noStep]

theorem runInput_of_unknown {r : Record} (h : decodeRecord r = r.unknown) : runInput (.record r) s =
    if r.w0.extractLsb' 6 2 = 1 ∨ r.w0.extractLsb' 6 2 = 2 then .refused .notAStep
    else .next (s.returns .invalidOp) := by
  split
  · next hb => simp only [runInput, decode, h, Record.unknown, if_pos hb, noStep]
  · next hb => simp only [runInput, decode, h, Record.unknown, if_neg hb]

theorem malformed_eq_rejected {r : Record} (h : i.format.bits? = some (r.w0.extractLsb' 6 2)) :
    malformed i s = rejected r s := by
  cases hi : i.format with
  | evt => rw [hi] at h; cases h
  | cmd | irq | env =>
    rw [hi] at h
    simp [malformed, hi, rejected, ← Option.some.inj h]

/-- A defect that the decoder lets through makes the decoded operation not well formed. -/
theorem runInput_of_defective {r : Record} (hop : r.op.toNat ∈ tableOps) (hd : r.Defective s.cfg) :
    runInput (.record r) s = rejected r s := by
  obtain hdef | ⟨i, hi, h4, he⟩ := answer_decodeRecord hop
  · exact runInput_of_defect hdef
  · have hw : i.wellFormed s.cfg = false :=
      Bool.eq_false_iff.2 fun hw => encode_not_defective hw he (Record.canon_defective h4 hd)
    have hbits : i.format.bits? = some (r.w0.extractLsb' 6 2) := by
      rw [← encode_formatBits, he]; rfl
    rw [runInput_of_decode (x := .record r) hi, exec_of_not_wellFormed hw, malformed_eq_rejected hbits]

/-- Settles O4: the decoder answers an unknown operation code; a defect is found by the decoder or by the operation. -/
theorem defectiveRecords : Obligations.DefectiveRecords := fun s r rest hin => by
  rw [step_of_inbox_cons hin]
  exact ⟨fun hop => runInput_of_unknown (decodeRecord_of_notMem hop),
    fun hop hd => runInput_of_defective (s := s.setInbox rest) hop hd⟩

end Sys2Proof.Machine
end

section
/-! SUPPORT. Operations of the other mode, and the DMA operations without block DMA (R88). -/

namespace Sys2Proof.Machine

variable {s : State} {i : Instr}

theorem pipeOf?_eq_some {n : Nat} (h : s.cfg.validPipe n = true) : ∃ j, s.pipeOf? n = some j := by
  rw [← Option.ne_none_iff_exists', ne_eq, pipeOf?_eq_none_iff, h]; simp

theorem portOf?_eq_some {n : Nat} (h : s.cfg.validPort n = true) : ∃ k, s.portOf? n = some k := by
  rw [← Option.ne_none_iff_exists', ne_eq, portOf?_eq_none_iff, h]; simp

/-- What becomes of a well-formed operation in the wrong mode (R88). -/
def wrongMode (i : Instr) (s : State) : Host.Outcome State Fault Refusal :=
  if i.format = .cmd then .next (s.returns .invalidState) else .refused .wrongMode

/-! ### Mode -/

theorem exec_of_hostOnly (hi : i.hostOnly = true) (hw : i.wellFormed s.cfg = true) (hm : s.cfg.mode = .peripheral) :
    exec i s = wrongMode i s := by
  cases i with
  | linkAttachProcess k | linkBusReset k | linkSuspend k | linkResume k | linkSetAddress k =>
    obtain ⟨k, hk⟩ := portOf?_eq_some hw
    simp [exec, wrongMode, Instr.format, execLinkAttachProcess, execLinkBusReset, execLinkSuspend, execLinkResume,
      execLinkSetAddress, linkCommand, hk, hm]
  | hwAttach k | hwDetach k | hwLinechg k =>
    obtain ⟨k, hk⟩ := portOf?_eq_some hw
    simp [exec, wrongMode, Instr.format, execHwAttach, execHwDetach, execHwLinechg, hwLinkStep, hk, hm]
  | hAttach k | hDetach k | hLinechg k =>
    obtain ⟨k, hk⟩ := portOf?_eq_some hw
    simp [exec, wrongMode, Instr.format, execHAttach, execHDetach, execHLinechg, linkHandler, hk, hm]
  | _ => cases hi

theorem exec_of_peripheralOnly (hi : i.peripheralOnly = true) (hw : i.wellFormed s.cfg = true) (hm : s.cfg.mode = .host) :
    exec i s = wrongMode i s := by
  cases i with
  | ctrlAck | ctrlStall | ctrlData =>
    simp [exec, wrongMode, Instr.format, execCtrlAck, execCtrlStall, execCtrlData, ctrlCommand, hm]
  | hwSetup bs =>
    have hlen : bs.length = 8 := by simpa [Instr.wellFormed] using hw
    simp [exec, wrongMode, Instr.format, execHwSetup, setupOf?, hlen, hm]
  | hwStatusDone | hwSeqErr => simp [exec, wrongMode, Instr.format, execHwStatusDone, execHwSeqErr, hm]
  | hSetup | hStsdone | hSeqerr =>
    simp [exec, wrongMode, Instr.format, execHSetup, execHStsdone, execHSeqerr, ctrlHandler, hm]
  | _ => cases hi

/-! ### Block DMA not configured -/

/-- Without block DMA every request runs on the CPU path (R152): up to the delegation `DMA_START` makes the tests of
`StartCommon`, in the same order. -/
theorem dmaStart_cpuOnly {j : PipeId} (hj : j ≠ 0) (hs : s.cfg.strategy = .cpuOnly) (b l c : Word) (p : DPort) :
    dmaStart j b l p c s = startCommon j (s.xdir j) b l c s := by
  have hdel : s.delegates j l.toNat p = true := by simp [State.delegates, hs]
  unfold dmaStart
  rw [hdel]
  split_ifs <;> simp_all [startCommon]

theorem exec_request {idx : BitVec 8} {j : PipeId} (h : s.pipeOf? idx.toNat = some j) (d : Dir) (b l c : Word) :
    exec (d.request idx b l c) s = .next (startCommon j d b l c s) := by
  cases d <;> simp [Dir.request, exec, execRead, execWrite, h]

theorem exec_dmaStart_cpuOnly {idx : BitVec 8} {f : FPort} {j : PipeId} (hs : s.cfg.strategy = .cpuOnly) (hf : f ≠ .c)
    (hj : s.pipeOf? idx.toNat = some j) (h0 : j ≠ 0) (b l c : Word) :
    exec (.dmaStart idx b l f c) s = exec ((s.xdir j).request idx b l c) s := by
  obtain ⟨p, hp⟩ : ∃ p, f.dma? = some p := by cases f <;> simp_all [FPort.dma?]
  rw [exec_request hj, ← dmaStart_cpuOnly h0 hs b l c p]
  simp [exec, execDmaStart, hj, hp, h0]

theorem exec_dma_cpuOnly {f : FPort} (hs : s.cfg.strategy = .cpuOnly) (hf : f.dma?.isSome = true) :
    exec (.dmaIrq f) s = .refused .wrongMode ∧ exec (.dmaBlock f) s = .refused .wrongMode := by
  obtain ⟨p, hp⟩ := Option.isSome_iff_exists.1 hf
  simp [exec, execDmaIrq, execDmaBlock, hp, hs]

/-- Settles O5, by family for the mode and by `dmaStart_cpuOnly` for the strategy. -/
theorem modeLegality : Obligations.ModeLegality := by
  refine fun i s hw => ⟨?_, fun hs => ⟨?_, ?_⟩⟩
  · rintro (⟨hi, hm⟩ | ⟨hi, hm⟩)
    · exact exec_of_hostOnly hi hw hm
    · exact exec_of_peripheralOnly hi hw hm
  · rintro idx b l f c j rfl hf hj h0
    exact exec_dmaStart_cpuOnly hs hf hj h0 b l c
  · rintro f (rfl | rfl)
    · exact (exec_dma_cpuOnly hs hw).1
    · exact (exec_dma_cpuOnly hs hw).2

end Sys2Proof.Machine
end

section
/-! SUPPORT. What all work on one pipe leaves of its record: one lemma per operation of the transfer paths, from the
lemmas that say what the shared operations do. -/

namespace Sys2Proof.Machine

variable {s t u : State} {j : PipeId}

/-- What all work on pipe `j` leaves of it: whether it is configured, its packet size, the mark `wedged` if it has it,
and a buffer-empty source that is off (R20, R25, R107, R257). -/
structure KeepsRecord (j : PipeId) (s t : State) : Prop where
  configured : (t.pipe j).configured = (s.pipe j).configured
  mps : (t.pipe j).mps = (s.pipe j).mps
  wedged : (s.pipe j).wedged = true → (t.pipe j).wedged = true
  bemp : t.enb (.bemp j) = true → s.enb (.bemp j) = true

theorem KeepsRecord.refl (j : PipeId) (s : State) : KeepsRecord j s s := ⟨rfl, rfl, id, id⟩

theorem KeepsRecord.trans (h : KeepsRecord j s t) (g : KeepsRecord j t u) : KeepsRecord j s u :=
  ⟨g.configured.trans h.configured, g.mps.trans h.mps, g.wedged ∘ h.wedged, h.bemp ∘ g.bemp⟩

/-- Neither the record of pipe `j` nor its buffer-empty source changes. -/
protected theorem KeepsRecord.same (h : KeepsRecord j s t) (hp : u.pipe j = t.pipe j)
    (he : u.enb (.bemp j) = t.enb (.bemp j)) : KeepsRecord j s u :=
  h.trans ⟨by rw [hp], by rw [hp], by rw [hp]; exact id, by rw [he]; exact id⟩

/-- The record of pipe `j` changes in other fields only. -/
protected theorem KeepsRecord.modPipe (h : KeepsRecord j s t) (f : Pipe → Pipe)
    (hf : ∀ q, (f q).configured = q.configured ∧ (f q).mps = q.mps ∧ (f q).wedged = q.wedged := by simp) :
    KeepsRecord j s (t.modPipe j f) := by
  obtain ⟨hc, hm, hw⟩ := hf (t.pipe j)
  exact h.trans ⟨by simp [hc], by simp [hm], by simp [hw], id⟩

@[simp] theorem setSlot_mps (q : Pipe) (d : Dir) (x : Slot) : (q.setSlot d x).mps = q.mps := by
  cases d <;> rfl

@[simp] theorem setSlot_wedged (q : Pipe) (d : Dir) (x : Slot) : (q.setSlot d x).wedged = q.wedged := by
  cases d <;> rfl

/-! ### The shared operations -/

protected theorem KeepsRecord.acquirePort (h : KeepsRecord j s t) (f : FPort) :
    KeepsRecord j s (acquirePort j f t).2 := by
  refine h.trans ?_
  by_cases hc : t.CanAcquire j f
  · have ha : Acquired j f t (acquirePort j f t).2 := acquirePort_acquired f hc
    unfold Acquired at ha
    split at ha
    · rw [ha]; exact .refl j t
    · exact (KeepsRecord.refl j t).same (ha.pipe j) (ha.enb _)
  · have hr : PortRefused j f t (acquirePort j f t).2 := (acquirePort_failed f hc).2
    have he : (acquirePort j f t).2.enb (.bemp j) = t.enb (.bemp j) := congrArg (·.enb (.bemp j)) hr.rest
    exact ⟨by rw [hr.pipe], by rw [hr.pipe], by rw [hr.pipe]; exact fun _ => rfl, by rw [he]; exact id⟩

protected theorem KeepsRecord.complete (h : KeepsRecord j s t) (d : Dir) (r : Result) :
    KeepsRecord j s (complete j d r t) := by
  have hd : Completed j d r t (complete j d r t) := complete_completed d r
  refine h.trans ⟨by simp [hd.record], by simp [hd.record], by simp [hd.record], ?_⟩
  rw [hd.enb _ rfl]
  exact fun he => (Bool.and_eq_true_iff.1 he).1

protected theorem KeepsRecord.terminateAll (h : KeepsRecord j s t) (r : Result)
    (hr : r ≠ .exact ∧ r ≠ .shortPacket := by decide) : KeepsRecord j s (terminateAll j r t) := by
  have hd : Terminated j r t (terminateAll j r t) := terminateAll_terminated r hr
  exact h.trans ⟨by rw [hd.record], by rw [hd.record], hd.wedged, by simp [hd.enb (.bemp j) rfl]⟩

protected theorem KeepsRecord.terminateIfBusy (h : KeepsRecord j s t) (r : Result)
    (hr : r ≠ .exact ∧ r ≠ .shortPacket := by decide) : KeepsRecord j s (terminateIfBusy j r t) := by
  unfold terminateIfBusy
  split
  · exact h.terminateAll r hr
  · exact h

/-! ### The CPU path -/

protected theorem KeepsRecord.commit (h : KeepsRecord j s t) (f : FPort) (b : Bool) : KeepsRecord j s (commit f j b t) :=
  h.same (by simp [commit]) (by simp [commit])

protected theorem KeepsRecord.advanceSlot (h : KeepsRecord j s t) (d : Dir) (n : Nat) :
    KeepsRecord j s (advanceSlot j d n t) :=
  h.modPipe _

protected theorem KeepsRecord.fifoWrite (h : KeepsRecord j s t) (f : FPort) (bs : List Byte) :
    KeepsRecord j s (fifoWrite f bs t) :=
  h.same (by simp [fifoWrite, logFifo]) (by simp [fifoWrite, logFifo])

protected theorem KeepsRecord.fifoRead (h : KeepsRecord j s t) (f : FPort) (n : Nat) :
    KeepsRecord j s (fifoRead f j n t).2 :=
  (h.same (u := logFifo f .r _ t) (by simp [logFifo]) (by simp [logFifo])).modPipe fun q => { q with rxFifo := none }

protected theorem KeepsRecord.writeOwned (h : KeepsRecord j s t) : KeepsRecord j s (writeOwned j t) := by
  have hchunk (n : Nat) (bs : List Byte) (b : Bool) :
      KeepsRecord j s (commit .c j b (advanceSlot j .tx n (fifoWrite .c bs t))) :=
    ((h.fifoWrite .c bs).advanceSlot .tx n).commit .c b
  simp only [writeOwned]
  split
  · exact hchunk _ _ false
  · split
    · exact ((hchunk _ _ false).commit .c true).complete .tx .exact
    · exact (hchunk _ _ true).complete .tx .exact

protected theorem KeepsRecord.writeChunk (h : KeepsRecord j s t) : KeepsRecord j s (writeChunk j t) := by
  simp only [writeChunk]
  split
  · exact (h.acquirePort .c).writeOwned
  · exact (h.acquirePort .c).terminateAll .portWedged

protected theorem KeepsRecord.readOwned (h : KeepsRecord j s t) (pkt : List Byte) :
    KeepsRecord j s (readOwned j pkt t) := by
  have hread (n : Nat) (m : Memory) :
      KeepsRecord j s (advanceSlot j .rx n ((fifoRead .c j n t).2.setMem m)) :=
    ((h.fifoRead .c n).same (u := (fifoRead .c j n t).2.setMem m) rfl rfl).advanceSlot .rx n
  simp only [readOwned]
  split
  · exact (hread _ _).complete .rx .overrun
  · split
    · exact (hread _ _).complete .rx .exact
    · split
      · exact (hread _ _).complete .rx .shortPacket
      · exact hread _ _

protected theorem KeepsRecord.readChunk (h : KeepsRecord j s t) : KeepsRecord j s (readChunk j t) := by
  simp only [readChunk]
  split
  · exact h
  · split
    · exact (h.acquirePort .c).readOwned _
    · exact (h.acquirePort .c).terminateAll .portWedged

protected theorem KeepsRecord.armCpu (h : KeepsRecord j s t) (d : Dir) (b l c : Word) :
    KeepsRecord j s (armCpu j d b l c t) :=
  (h.modPipe (Pipe.arm j d b l c) (by simp [Pipe.arm])).same (by simp [armCpu]) (by simp [armCpu])

protected theorem KeepsRecord.pushFirst (h : KeepsRecord j s t) (d : Dir) : KeepsRecord j s (pushFirst j d t) := by
  unfold pushFirst
  split
  · exact h.writeChunk
  · exact h

protected theorem KeepsRecord.returns (h : KeepsRecord j s t) (r : Status) : KeepsRecord j s (t.returns r) :=
  h.same rfl rfl

protected theorem KeepsRecord.startCommon (h : KeepsRecord j s t) (d : Dir) (b l c : Word) :
    KeepsRecord j s (startCommon j d b l c t) := by
  simp only [startCommon]
  iterate 5 (split <;> [exact h.returns _; skip])
  split
  · exact (((h.acquirePort .c).armCpu d b l c).pushFirst d).returns .ok
  · exact ((h.acquirePort .c).terminateIfBusy .portWedged).returns .portWedgedNow

protected theorem KeepsRecord.handleBrdy (h : KeepsRecord j s t) : KeepsRecord j s (handleBrdy j t) := by
  simp only [handleBrdy]
  split
  · exact h
  · split
    · exact (h.modPipe _).writeChunk
    · exact (h.modPipe _).readChunk

protected theorem KeepsRecord.retryNotReady (h : KeepsRecord j s t) : KeepsRecord j s (retryNotReady j t) :=
  (h.same (u := delay t.cfg.nrdyRetryDelay t) rfl rfl).modPipe fun q => { q with pid := .buf }

protected theorem KeepsRecord.handleNrdy (h : KeepsRecord j s t) : KeepsRecord j s (handleNrdy j t) := by
  simp only [handleNrdy]
  split
  · exact h
  · split
    · exact h.terminateAll .stall
    · split
      · exact h.terminateAll .notReadyExceeded
      · split
        · exact (h.modPipe _).terminateAll .notReadyExceeded
        · exact (h.modPipe _).retryNotReady

/-! ### The DMA path -/

protected theorem KeepsRecord.armDma (h : KeepsRecord j s t) (d : Dir) (b l c : Word) (p : DPort) :
    KeepsRecord j s (armDma j d b l c p t) :=
  (h.modPipe (Pipe.armDma d b l c p) (by simp [Pipe.armDma])).same (by simp [armDma]) (by simp [armDma])

protected theorem KeepsRecord.dmaStart (h : KeepsRecord j s t) (b l : Word) (p : DPort) (c : Word) :
    KeepsRecord j s (dmaStart j b l p c t) := by
  simp only [dmaStart]
  iterate 4 (split <;> [exact h.returns _; skip])
  split
  · exact h.startCommon _ b l c
  · split
    · exact h.returns .busy
    · split
      · exact ((h.acquirePort p.fport).armDma _ b l c p).returns .ok
      · exact (h.acquirePort p.fport).returns .portWedgedNow

protected theorem KeepsRecord.dmaAccount (h : KeepsRecord j s t) (p : DPort) (hj : (t.chan p).pipe = j) :
    KeepsRecord j s (dmaAccount p t) := by
  subst hj
  exact (h.advanceSlot (t.chan p).dirn (t.chan p).moved).same (by simp [dmaAccount]) (by simp [dmaAccount])

protected theorem KeepsRecord.dmaRemainder (h : KeepsRecord j s t) (d : Dir) :
    KeepsRecord j s (dmaRemainder j d t) := by
  simp only [dmaRemainder]
  split
  · have harm := (h.acquirePort .c).modPipe fun q =>
      q.setSlot d { q.slot d with state := .armed, path := .cpu, oneShot := true }
    exact (harm.same (by simp) (by simp)).pushFirst d
  · exact (h.acquirePort .c).terminateAll .portWedged

protected theorem KeepsRecord.dmaEnd (h : KeepsRecord j s t) (p : DPort) (d : Dir) :
    KeepsRecord j s (dmaEnd p j d t) := by
  cases d with
  | rx => exact h.complete .rx .exact
  | tx =>
    simp only [dmaEnd]
    split
    · exact ((h.acquirePort p.fport).commit p.fport true).complete .tx .exact
    · exact (h.acquirePort p.fport).terminateAll .portWedged

protected theorem KeepsRecord.dmaComplete {c : Chan} (h : KeepsRecord c.pipe s t) (p : DPort)
    (hc : (t.chan p).pipe = c.pipe) : KeepsRecord c.pipe s (dmaComplete p c t) := by
  simp only [dmaComplete]
  split
  · exact (h.dmaAccount p hc).complete .rx .shortPacket
  · split
    · exact (h.dmaAccount p hc).dmaRemainder c.dirn
    · exact (h.dmaAccount p hc).dmaEnd p c.dirn

end Sys2Proof.Machine
end

section
/-! SUPPORT. What one operation can do to the pipe table, said once: `PipeSteps i s t` builds the states operation `i`
passes through by four kinds of change: none that the pipe invariant speaks of, work on one pipe in use, the release of an
idle pipe, and `CONFIGURE_PIPE`. -/

namespace Sys2Proof.Machine

variable {s t u : State} {i : Instr}

/-! ### The changes -/

/-- No pipe record changes but for toggle bits (R244), and no enable bit of a pipe. -/
structure SamePipes (s t : State) : Prop where
  cfg : t.cfg = s.cfg
  pipe : ∀ j, (t.pipe j).SameButToggle (s.pipe j)
  enb : ∀ x : Source, x.pipe? ≠ none → t.enb x = s.enb x

/-- Pipe `j` is pipe 0, or configured, or has a request outstanding: no operation works on any other pipe. -/
def State.InUse (s : State) (j : PipeId) : Prop := j = 0 ∨ (s.pipe j).configured = true ∨ s.busy j = true

/-- The states operation `i` passes through from `s`. -/
inductive PipeSteps (i : Instr) (s : State) : State → Prop
  | start : PipeSteps i s s
  | same {t u : State} (h : PipeSteps i s t) (hu : SamePipes t u) : PipeSteps i s u
  | work {t u : State} (h : PipeSteps i s t) (j : PipeId) (hj : t.InUse j) (hf : OnlyPipe j t u)
      (hk : KeepsRecord j t u) : PipeSteps i s u
  | release {t : State} (h : PipeSteps i s t) (j : PipeId) (hj : t.busy j = false) :
      PipeSteps i s ((clearStatus j (disableSources j t)).modPipe j (Pipe.release j))
  | configure {t : State} (h : PipeSteps i s t) (j : PipeId) (ty : TType) (d : UsbDir) (m : Nat)
      (a : Option (BitVec 7)) (hi : Configures i j) (hj : j.val < t.cfg.numPipes) (hm : 1 ≤ m ∧ m ≤ 1024) :
      PipeSteps i s (clearStatus j (disableSources j (t.modPipe j (Pipe.configure j ty d m a))))

theorem SamePipes.of_eq (hc : t.cfg = s.cfg := by simp) (hp : ∀ j, t.pipe j = s.pipe j := by simp)
    (he : ∀ x, t.enb x = s.enb x := by simp) : SamePipes s t :=
  ⟨hc, fun j => by rw [hp j]; rfl, fun x _ => he x⟩

theorem port?_eq_none_of_pipe? {x : Source} (h : x.pipe? ≠ none) : x.port? = none := by
  cases x <;> simp_all [Source.pipe?, Source.port?]

/-- An operation on a physical port leaves every pipe as it was. -/
theorem OnlyLink.samePipes {k : PortId} (h : OnlyLink k s t) : SamePipes s t :=
  ⟨h.cfg, fun j => by rw [h.pipes j]; rfl, fun x hx => h.enb x (by simp [port?_eq_none_of_pipe? hx])⟩

protected theorem PipeSteps.returns (h : PipeSteps i s t) (r : Status) : PipeSteps i s (t.returns r) :=
  h.same (.of_eq rfl (fun _ => rfl) fun _ => rfl)

protected theorem PipeSteps.setSts (h : PipeSteps i s t) (x : Source) (b : Bool) : PipeSteps i s (t.setSts x b) :=
  h.same .of_eq

protected theorem PipeSteps.hwToggles (h : PipeSteps i s t) : PipeSteps i s (hwToggles t) :=
  h.same ⟨hwToggles_cfg, hwToggles_same, fun _ _ => hwToggles_enb _⟩

protected theorem PipeSteps.link (h : PipeSteps i s t) {k : PortId} (hk : OnlyLink k t u) : PipeSteps i s u :=
  h.same hk.samePipes

/-- Work on pipe 0, which is always in use. -/
protected theorem PipeSteps.zero (h : PipeSteps i s t) (hf : OnlyPipe 0 t u) (hk : KeepsRecord 0 t u) :
    PipeSteps i s u :=
  h.work 0 (.inl rfl) hf hk

/-! ### When a pipe is busy -/

theorem busy_eq_true_iff {j : PipeId} : s.busy j = true ↔ ∃ d, ((s.pipe j).slot d).state ≠ .idle := by
  constructor
  · intro h
    obtain h | h := Bool.or_eq_true_iff.1 h
    · exact ⟨.rx, of_decide_eq_true h⟩
    · exact ⟨.tx, of_decide_eq_true h⟩
  · rintro ⟨d, h⟩
    cases d <;> simp_all [State.busy, Pipe.slot]

theorem busy_congr {j : PipeId} (h : ∀ d, (t.pipe j).slot d = (s.pipe j).slot d) : t.busy j = s.busy j := by
  have hrx : (t.pipe j).slotRx = (s.pipe j).slotRx := h .rx
  have htx : (t.pipe j).slotTx = (s.pipe j).slotTx := h .tx
  simp only [State.busy, hrx, htx]

/-- After a forced termination nothing is outstanding (R130). -/
theorem terminateIfBusy_busy (j : PipeId) (r : Result) (hr : r ≠ .exact ∧ r ≠ .shortPacket := by decide) :
    (terminateIfBusy j r s).busy j = false := by
  have he : Ended j r s (terminateIfBusy j r s) := terminateIfBusy_ended r hr
  unfold Ended at he
  split at he
  · next hb =>
    obtain ⟨hrx, htx⟩ := he.idle hb
    simp [State.busy, hrx, htx]
  · next hb => rw [he]; simpa using hb

protected theorem PipeSteps.terminateIfBusy (h : PipeSteps i s t) (j : PipeId) (r : Result)
    (hr : r ≠ .exact ∧ r ≠ .shortPacket := by decide) : PipeSteps i s (terminateIfBusy j r t) := by
  by_cases hb : t.busy j = true
  · exact h.work j (.inr (.inr hb)) (by simp [OnlyPipe.refl]) ((KeepsRecord.refl j t).terminateIfBusy r hr)
  · simpa [terminateIfBusy, hb] using h

protected theorem PipeSteps.releasePipe (h : PipeSteps i s t) (j : PipeId) : PipeSteps i s (releasePipe j t) :=
  (h.terminateIfBusy j .stopped).release j (terminateIfBusy_busy j .stopped)

/-! ### The handlers -/

protected theorem PipeSteps.handleBrdy (h : PipeSteps i s t) (j : PipeId) : PipeSteps i s (handleBrdy j t) := by
  by_cases ha : ((t.pipe j).slot (t.route j)).state = .armed
  · have hj : t.InUse j := .inr (.inr (busy_eq_true_iff.2 ⟨t.route j, by simp [ha]⟩))
    exact h.work j hj (by simp [OnlyPipe.refl]) (KeepsRecord.refl j t).handleBrdy
  · simpa [handleBrdy, ha] using h

protected theorem PipeSteps.handleNrdy (h : PipeSteps i s t) (j : PipeId) : PipeSteps i s (handleNrdy j t) := by
  by_cases hi : ((t.pipe j).slot (t.route j)).state = .idle
  · simpa [handleNrdy, hi] using h
  · have hj : t.InUse j := .inr (.inr (busy_eq_true_iff.2 ⟨t.route j, hi⟩))
    exact h.work j hj (by simp [OnlyPipe.refl]) (KeepsRecord.refl j t).handleNrdy

/-! ### Control requests: work on pipe 0 -/

/-- The pid of pipe 0 is written. -/
protected theorem PipeSteps.setPid (h : PipeSteps i s t) (x : Pid) :
    PipeSteps i s (t.modPipe 0 fun q => { q with pid := x }) :=
  h.zero (by simp [OnlyPipe.refl]) ((KeepsRecord.refl 0 t).modPipe _)

protected theorem PipeSteps.modCtrl (h : PipeSteps i s t) (f : Ctrl → Ctrl) : PipeSteps i s (t.modCtrl f) :=
  h.same .of_eq

protected theorem PipeSteps.addSetup (h : PipeSteps i s t) (v : Vector Byte 8) : PipeSteps i s (t.addSetup v) :=
  h.same .of_eq

protected theorem PipeSteps.handleSetup (h : PipeSteps i s t) : PipeSteps i s (handleSetup t) :=
  (((h.terminateIfBusy 0 .stopped).setPid .nak).modCtrl _).addSetup _

protected theorem PipeSteps.stallControl (h : PipeSteps i s t) (r : Result)
    (hr : r ≠ .exact ∧ r ≠ .shortPacket := by decide) : PipeSteps i s (stallControl r t) :=
  ((h.terminateIfBusy 0 r hr).setPid .stall).modCtrl _

protected theorem PipeSteps.ctrlAck (h : PipeSteps i s t) : PipeSteps i s (ctrlAck t) := by
  unfold ctrlAck
  split
  · exact h.returns .invalidState
  · exact ((h.setPid .buf).modCtrl _).returns .ok

protected theorem PipeSteps.handleStsdone (h : PipeSteps i s t) : PipeSteps i s (handleStsdone t) := by
  unfold handleStsdone
  split
  · exact (h.setPid .nak).modCtrl _
  · exact h

/-! ### Submission -/

protected theorem PipeSteps.startCommon (h : PipeSteps i s t) (j : PipeId) (d : Dir) (b l c : Word) :
    PipeSteps i s (startCommon j d b l c t) := by
  by_cases hc : (t.pipe j).configured = true
  · exact h.work j (.inr (.inl hc)) (by simp [OnlyPipe.refl]) ((KeepsRecord.refl j t).startCommon d b l c)
  · simpa [startCommon, hc] using h.returns .invalidState

protected theorem PipeSteps.dmaStart (h : PipeSteps i s t) (j : PipeId) (b l : Word) (p : DPort) (c : Word) :
    PipeSteps i s (dmaStart j b l p c t) := by
  by_cases hc : (t.pipe j).configured = true
  · exact h.work j (.inr (.inl hc)) (by simp [OnlyPipe.refl]) ((KeepsRecord.refl j t).dmaStart b l p c)
  · simpa [dmaStart, hc] using h.returns .invalidState

protected theorem PipeSteps.ctrlData (h : PipeSteps i s t) (b l c : Word) : PipeSteps i s (ctrlData b l c t) := by
  unfold ctrlData ctrlDataResult
  split
  · exact h.returns .invalidState
  · split
    · exact h.startCommon 0 _ b l c
    · exact (h.startCommon 0 _ b l c).modCtrl _

/-! ### The host link -/

protected theorem PipeSteps.foldl {α : Type} {f : State → α → State}
    (hf : ∀ u a, PipeSteps i s u → PipeSteps i s (f u a)) (l : List α) (h : PipeSteps i s t) :
    PipeSteps i s (l.foldl f t) := by
  induction l generalizing t with
  | nil => exact h
  | cons a l ih => exact ih (hf t a h)

protected theorem PipeSteps.detachPipe (h : PipeSteps i s t) (a : BitVec 7) (j : PipeId) :
    PipeSteps i s (detachPipe a t j) := by
  simp only [detachPipe]
  split
  · split
    · exact (h.releasePipe j).zero (by simp [OnlyPipe.refl]) ((KeepsRecord.refl 0 _).modPipe _)
    · exact h.releasePipe j
  · exact h

protected theorem PipeSteps.handleDetach (h : PipeSteps i s t) (k : PortId) : PipeSteps i s (handleDetach k t) := by
  simp only [handleDetach]
  split
  · exact h
  · exact (h.foldl (fun u j hu => hu.detachPipe ((t.link k).dev.getD 0) j) allPipes).link (k := k)
      (by simp [OnlyLink.refl])

/-! ### The dispatcher -/

protected theorem PipeSteps.handler (h : PipeSteps i s t) (x : Source) : PipeSteps i s (handler x t) := by
  cases x with
  | brdy j => exact h.handleBrdy j
  | bemp j => exact h
  | nrdy j => exact h.handleNrdy j
  | attach k => exact h.link (onlyLink_handleAttach.2 (.refl k t))
  | detach k => exact h.handleDetach k
  | linechg k => exact h.link (onlyLink_handleLinechg.2 (.refl k t))
  | setup => exact h.handleSetup
  | stsdone => exact h.handleStsdone
  | seqerr => exact h.stallControl .stall

protected theorem PipeSteps.deliver (h : PipeSteps i s t) (x : Source) : PipeSteps i s (deliver t x) := by
  unfold deliver
  split
  · exact (h.setSts x false).handler x
  · exact (h.handler x).setSts x false

protected theorem PipeSteps.dispatch (h : PipeSteps i s t) : PipeSteps i s (dispatch t) :=
  h.foldl (fun _ _ hu => hu.foldl (fun _ x hv => hv.deliver x) _) allRegs

theorem execUsbIrq_pipeSteps : NextMeets (PipeSteps i s) (execUsbIrq s) := by
  unfold execUsbIrq
  split <;> simp [PipeSteps.start.dispatch]

/-! ### The DMA engine -/

/-- The pipe of a binding that is not stale has a request outstanding (R155). -/
theorem busy_of_not_dmaStale {p : DPort} (h : s.dmaStale p = false) : s.busy (s.chan p).pipe = true := by
  simp only [State.dmaStale, Bool.or_eq_false_iff, decide_eq_false_iff_not, not_not] at h
  obtain ⟨⟨-, harmed⟩, -⟩ := h
  exact busy_eq_true_iff.2 ⟨(s.chan p).dirn, by simp [harmed]⟩

theorem dmaIrq_pipeSteps (p : DPort) : NextMeets (PipeSteps i s) (dmaIrq p s) := by
  have hdone : PipeSteps i s (s.modChan p fun x => { x with done := false }) := PipeSteps.start.same .of_eq
  have hpipe : ((s.modChan p fun x => { x with done := false }).chan p).pipe = (s.chan p).pipe := by simp
  simp only [dmaIrq]
  split
  · exact nextMeets_next.2 hdone
  · next hs =>
    split
    · exact nextMeets_fault _
    · have hj := busy_of_not_dmaStale (Bool.not_eq_true _ ▸ hs)
      exact nextMeets_next.2 (hdone.work _ (.inr (.inr (hpipe ▸ hj)))
        ((onlyPipe_dmaComplete p _ hpipe).2 (.refl _ _)) ((KeepsRecord.refl _ _).dmaComplete p hpipe))

theorem execDmaIrq_pipeSteps (f : FPort) : NextMeets (PipeSteps i s) (execDmaIrq f s) := by
  unfold execDmaIrq
  split
  · exact nextMeets_refused _
  · split <;> [skip; split] <;> simp [dmaIrq_pipeSteps]

theorem moveBlock_samePipes (p : DPort) : SamePipes s (moveBlock p s) := by
  simp only [moveBlock]
  split
  · exact .of_eq
  · exact .of_eq

theorem execDmaBlock_pipeSteps (f : FPort) : NextMeets (PipeSteps i s) (execDmaBlock f s) := by
  unfold execDmaBlock
  split
  · exact nextMeets_refused _
  · next p _ =>
    have h : PipeSteps i s (moveBlock p s) := PipeSteps.start.same (moveBlock_samePipes p)
    split <;> [skip; split] <;> simp [h]

/-! ### The `Hw` steps -/

/-- A `Hw` step on an enabled pipe (R87, R230). -/
theorem hwPipeStep_meets_enabled {P : State → Prop} {idx : BitVec 8} {en : PipeId → Bool} {f : PipeId → State}
    (h : ∀ j, en j = true → P (hwToggles (f j))) : NextMeets P (hwPipeStep idx s en f) := by
  unfold hwPipeStep
  split
  · exact nextMeets_refused _
  · split
    · next he => exact nextMeets_next.2 (h _ he)
    · exact nextMeets_refused _

theorem execHwRxPacket_pipeSteps (idx : BitVec 8) (bs : List Byte) :
    NextMeets (PipeSteps i s) (execHwRxPacket idx bs s) := by
  unfold execHwRxPacket
  split
  · exact nextMeets_refused _
  · refine hwPipeStep_meets_enabled fun j hj => ?_
    have hc : (s.pipe j).configured = true := by simp_all [State.canReceive]
    exact ((PipeSteps.start.work j (.inr (.inl hc)) (by simp [OnlyPipe.refl])
      ((KeepsRecord.refl j s).modPipe _)).setSts (.brdy j) true).hwToggles

theorem execHwStall_pipeSteps (idx : BitVec 8) : NextMeets (PipeSteps i s) (execHwStall idx s) := by
  refine hwPipeStep_meets_enabled fun j hj => ?_
  have hc : (s.pipe j).configured = true := by simp_all [State.canRespond]
  exact ((PipeSteps.start.work j (.inr (.inl hc)) (by simp [OnlyPipe.refl])
    ((KeepsRecord.refl j s).modPipe _)).setSts (.nrdy j) true).hwToggles

theorem execHwSetup_pipeSteps (bs : List Byte) : NextMeets (PipeSteps i s) (execHwSetup bs s) := by
  unfold execHwSetup
  split <;> [skip; split]
  · exact nextMeets_refused _
  · exact nextMeets_refused _
  · exact nextMeets_next.2 ((PipeSteps.start.modCtrl _).setSts .setup true).hwToggles

theorem execHwStatusDone_pipeSteps : NextMeets (PipeSteps i s) (execHwStatusDone s) := by
  unfold execHwStatusDone
  split <;> [skip; split]
  · exact nextMeets_refused _
  · exact nextMeets_refused _
  · exact nextMeets_next.2 (PipeSteps.start.setSts .stsdone true).hwToggles

theorem execHwSeqErr_pipeSteps : NextMeets (PipeSteps i s) (execHwSeqErr s) := by
  unfold execHwSeqErr
  split
  · exact nextMeets_refused _
  · exact nextMeets_next.2 (PipeSteps.start.setSts .seqerr true).hwToggles

/-! ### Commands and handlers -/

theorem configureArgsOk_mps {m : Mode} {j : PipeId} {ty : TType} {d : UsbDir} {n : BitVec 11} {a : Option (BitVec 7)}
    (h : configureArgsOk m j ty d n a = true) : 1 ≤ n.toNat ∧ n.toNat ≤ 1024 := by
  simp only [configureArgsOk, Bool.and_eq_true, decide_eq_true_eq] at h
  exact h.1.1

theorem execConfigurePipe_pipeSteps (idx : BitVec 8) (ty : TType) (d : UsbDir) (m : BitVec 11)
    (a : Option (BitVec 7)) :
    NextMeets (PipeSteps (.configurePipe idx ty d m a) s) (execConfigurePipe idx ty d m a s) := by
  unfold execConfigurePipe
  split
  · exact nextMeets_next.2 (PipeSteps.start.returns _)
  · next j hj =>
    obtain ⟨hval, hlt⟩ := pipeOf?_some hj
    split <;> [skip; split] <;> refine nextMeets_next.2 ?_
    · exact PipeSteps.start.returns _
    · exact PipeSteps.start.returns _
    · next hargs _ =>
      exact (PipeSteps.start.configure j ty d m.toNat a ⟨idx, ty, d, m, a, rfl, hval.symm⟩ (hval ▸ hlt)
        (configureArgsOk_mps (by simpa using hargs))).returns .ok

theorem execReleasePipe_pipeSteps (idx : BitVec 8) : NextMeets (PipeSteps i s) (execReleasePipe idx s) := by
  unfold execReleasePipe
  split
  · exact nextMeets_next.2 (PipeSteps.start.returns _)
  · exact nextMeets_next.2 ((PipeSteps.start.releasePipe _).returns .ok)

theorem execAcquirePort_pipeSteps (idx : BitVec 8) (f : FPort) :
    NextMeets (PipeSteps i s) (execAcquirePort idx f s) := by
  unfold execAcquirePort acquireResult
  split
  · exact nextMeets_next.2 (PipeSteps.start.returns _)
  · next j _ =>
    split
    · exact nextMeets_next.2 (PipeSteps.start.returns _)
    · next hc =>
      have hport : PipeSteps i s (acquirePort j f s).2 := PipeSteps.start.work j (.inr (.inl (by simpa using hc)))
        (by simp [OnlyPipe.refl]) ((KeepsRecord.refl j s).acquirePort f)
      split <;> [skip; split] <;> refine nextMeets_next.2 ?_
      · exact PipeSteps.start.returns _
      · exact hport.returns .ok
      · exact (hport.terminateIfBusy j .portWedged).returns .portWedgedNow

theorem execRead_pipeSteps (idx : BitVec 8) (b l c : Word) : NextMeets (PipeSteps i s) (execRead idx b l c s) := by
  unfold execRead
  split
  · exact nextMeets_next.2 (PipeSteps.start.returns _)
  · exact nextMeets_next.2 (PipeSteps.start.startCommon _ .rx b l c)

theorem execWrite_pipeSteps (idx : BitVec 8) (b l c : Word) : NextMeets (PipeSteps i s) (execWrite idx b l c s) := by
  unfold execWrite
  split
  · exact nextMeets_next.2 (PipeSteps.start.returns _)
  · exact nextMeets_next.2 (PipeSteps.start.startCommon _ .tx b l c)

theorem execStop_pipeSteps (idx : BitVec 8) : NextMeets (PipeSteps i s) (execStop idx s) := by
  unfold execStop
  split
  · exact nextMeets_next.2 (PipeSteps.start.returns _)
  · exact nextMeets_next.2 ((PipeSteps.start.terminateIfBusy _ .stopped).returns .ok)

theorem execDmaStart_pipeSteps (idx : BitVec 8) (b l : Word) (f : FPort) (c : Word) :
    NextMeets (PipeSteps i s) (execDmaStart idx b l f c s) := by
  unfold execDmaStart
  split <;> refine nextMeets_next.2 ?_
  · split
    · exact PipeSteps.start.returns _
    · exact PipeSteps.start.dmaStart _ b l _ c
  · exact PipeSteps.start.returns _
  · exact PipeSteps.start.returns _

theorem execHBrdy_pipeSteps (p : BitVec 5) : NextMeets (PipeSteps i s) (execHBrdy p s) := by
  unfold execHBrdy
  split
  · exact nextMeets_refused _
  · exact nextMeets_next.2 (PipeSteps.start.handleBrdy _)

theorem execHBemp_pipeSteps (p : BitVec 5) : NextMeets (PipeSteps i s) (execHBemp p s) := by
  unfold execHBemp
  split
  · exact nextMeets_refused _
  · next j _ => exact nextMeets_next.2 (PipeSteps.start.handler (.bemp j))

theorem execHNrdy_pipeSteps (p : BitVec 5) : NextMeets (PipeSteps i s) (execHNrdy p s) := by
  unfold execHNrdy
  split
  · exact nextMeets_refused _
  · exact nextMeets_next.2 (PipeSteps.start.handleNrdy _)

/-- Every operation goes from its start to its next state by the changes of `PipeSteps`. -/
theorem exec_pipeSteps (i : Instr) : NextMeets (PipeSteps i s) (exec i s) := by
  cases i with
  | configurePipe idx ty d m a => exact execConfigurePipe_pipeSteps idx ty d m a
  | releasePipe idx => exact execReleasePipe_pipeSteps idx
  | acquirePort idx f => exact execAcquirePort_pipeSteps idx f
  | read idx b l c => exact execRead_pipeSteps idx b l c
  | write idx b l c => exact execWrite_pipeSteps idx b l c
  | stop idx => exact execStop_pipeSteps idx
  | dmaStart idx b l f c => exact execDmaStart_pipeSteps idx b l f c
  | linkAttachProcess idx =>
    exact linkCommand_meets PipeSteps.start.returns fun k => PipeSteps.start.link (k := k) (by simp [OnlyLink.refl])
  | linkBusReset idx =>
    exact linkCommand_meets PipeSteps.start.returns fun k => PipeSteps.start.link (k := k) (by simp [OnlyLink.refl])
  | linkSuspend idx =>
    exact linkCommand_meets PipeSteps.start.returns fun k => PipeSteps.start.link (k := k) (by simp [OnlyLink.refl])
  | linkResume idx =>
    exact linkCommand_meets PipeSteps.start.returns fun k => PipeSteps.start.link (k := k) (by simp [OnlyLink.refl])
  | linkSetAddress idx a =>
    exact linkCommand_meets PipeSteps.start.returns fun k => PipeSteps.start.link (k := k) (by simp [OnlyLink.refl])
  | ctrlAck => exact ctrlCommand_meets (PipeSteps.start.returns _) PipeSteps.start.ctrlAck
  | ctrlStall =>
    exact ctrlCommand_meets (PipeSteps.start.returns _) ((PipeSteps.start.stallControl .stopped).returns .ok)
  | ctrlData b l c => exact ctrlCommand_meets (PipeSteps.start.returns _) (PipeSteps.start.ctrlData b l c)
  | usbIrq => exact execUsbIrq_pipeSteps
  | dmaIrq f => exact execDmaIrq_pipeSteps f
  | hwRxPacket idx bs => exact execHwRxPacket_pipeSteps idx bs
  | hwTxReady idx => exact hwPipeStep_meets fun j => (PipeSteps.start.setSts (.brdy j) true).hwToggles
  | hwNotReady idx => exact hwPipeStep_meets fun j => (PipeSteps.start.setSts (.nrdy j) true).hwToggles
  | hwStall idx => exact execHwStall_pipeSteps idx
  | hwBufEmpty idx => exact hwPipeStep_meets fun j => (PipeSteps.start.setSts (.bemp j) true).hwToggles
  | hwAttach idx => exact hwLinkStep_meets fun k => (PipeSteps.start.setSts (.attach k) true).hwToggles
  | hwDetach idx => exact hwLinkStep_meets fun k => (PipeSteps.start.setSts (.detach k) true).hwToggles
  | hwLinechg idx => exact hwLinkStep_meets fun k => (PipeSteps.start.setSts (.linechg k) true).hwToggles
  | hwSetup bs => exact execHwSetup_pipeSteps bs
  | hwStatusDone => exact execHwStatusDone_pipeSteps
  | hwSeqErr => exact execHwSeqErr_pipeSteps
  | dmaBlock f => exact execDmaBlock_pipeSteps f
  | hBrdy p => exact execHBrdy_pipeSteps p
  | hBemp p => exact execHBemp_pipeSteps p
  | hNrdy p => exact execHNrdy_pipeSteps p
  | hAttach k => exact linkHandler_meets fun k => PipeSteps.start.handler (.attach k)
  | hDetach k => exact linkHandler_meets PipeSteps.start.handleDetach
  | hLinechg k => exact linkHandler_meets fun k => PipeSteps.start.handler (.linechg k)
  | hSetup => exact ctrlHandler_meets PipeSteps.start.handleSetup
  | hStsdone => exact ctrlHandler_meets PipeSteps.start.handleStsdone
  | hSeqerr => exact ctrlHandler_meets (PipeSteps.start.stallControl .stall)

end Sys2Proof.Machine
end

section
/-! SUPPORT. The pipe invariant pipe by pipe, and that the changes of `PipeSteps` keep it (R20, R21, R25, R109, R257) and
clear the mark `wedged` in `CONFIGURE_PIPE` only (R107). -/

namespace Sys2Proof.Machine

variable {s t : State} {i : Instr} {j : PipeId}

/-! ### One pipe -/

/-- An unconfigured pipe: nothing outstanding, no source enabled, no packet answered or counted (R109). -/
structure State.Unused (s : State) (j : PipeId) : Prop where
  busy : s.busy j = false
  enb : ∀ x : Source, x.pipe? = some j → s.enb x = false
  pid : (s.pipe j).pid = .nak
  trncnt : (s.pipe j).trncnt = 0

/-- The clauses of `PipeInv` about pipe `j`. -/
structure PipeOk (s : State) (j : PipeId) : Prop where
  zero : j = 0 → (s.pipe j).configured = true
  exist : (s.pipe j).configured = true → j.val < s.cfg.numPipes
  free : (s.pipe j).configured = false → s.Unused j
  mps : 1 ≤ (s.pipe j).mps ∧ (s.pipe j).mps ≤ 1024
  bemp : s.enb (.bemp j) = false

theorem unused_iff : s.Unused j ↔ s.busy j = false ∧ s.enb (.brdy j) = false ∧ s.enb (.nrdy j) = false ∧
    s.enb (.bemp j) = false ∧ (s.pipe j).pid = .nak ∧ (s.pipe j).trncnt = 0 := by
  constructor
  · rintro ⟨hb, he, hp, ht⟩
    exact ⟨hb, he _ rfl, he _ rfl, he _ rfl, hp, ht⟩
  · rintro ⟨hb, h1, h2, h3, hp, ht⟩
    exact ⟨hb, forall_source_of_pipe.2 ⟨h1, h2, h3⟩, hp, ht⟩

theorem pipeInv_iff : PipeInv s ↔ ∀ j, PipeOk s j :=
  ⟨fun h j => ⟨fun h0 => h0 ▸ h.zero, h.exist j, fun hc => unused_iff.2 (h.free j hc), h.mps j, h.bemp j⟩,
    fun h => ⟨(h 0).zero rfl, fun j => (h j).exist, fun j hc => unused_iff.1 ((h j).free hc), fun j => (h j).mps,
      fun j => (h j).bemp⟩⟩

/-- Records that agree but for the toggle bit agree in every other field. -/
theorem Pipe.SameButToggle.field {α : Type} {a b : Pipe} (h : a.SameButToggle b) (f : Pipe → α)
    (hf : ∀ q : Pipe, f { q with toggle := false } = f q := by exact fun _ => rfl) : f a = f b :=
  (hf a).symm.trans ((congrArg f h).trans (hf b))

/-- The clauses see neither the toggle bit nor anything outside the pipe. -/
theorem PipeOk.congr (h : PipeOk s j) (hc : t.cfg = s.cfg) (hp : (t.pipe j).SameButToggle (s.pipe j))
    (he : ∀ x : Source, x.pipe? = some j → t.enb x = s.enb x) : PipeOk t j := by
  have hconf : (t.pipe j).configured = (s.pipe j).configured := hp.field Pipe.configured
  have hmps : (t.pipe j).mps = (s.pipe j).mps := hp.field Pipe.mps
  have hpid : (t.pipe j).pid = (s.pipe j).pid := hp.field Pipe.pid
  have hcnt : (t.pipe j).trncnt = (s.pipe j).trncnt := hp.field Pipe.trncnt
  have hbusy : t.busy j = s.busy j := busy_congr fun d => by
    cases d with
    | rx => exact hp.field Pipe.slotRx
    | tx => exact hp.field Pipe.slotTx
  obtain ⟨hzero, hexist, hfree, hm, hbemp⟩ := h
  refine ⟨hconf ▸ hzero, ?_, fun hn => ?_, hmps ▸ hm, (he _ rfl).trans hbemp⟩
  · rw [hconf, hc]; exact hexist
  · obtain ⟨hb, hen, hpd, htr⟩ := hfree (hconf ▸ hn)
    exact ⟨hbusy.trans hb, fun x hx => (he x hx).trans (hen x hx), hpid.trans hpd, hcnt.trans htr⟩

/-- A pipe in use is configured (R109). -/
theorem PipeOk.configured_of_inUse (h : PipeOk s j) (hj : s.InUse j) : (s.pipe j).configured = true := by
  obtain h0 | hc | hb := hj
  · exact h.zero h0
  · exact hc
  · exact Classical.byContradiction fun hn => by simp [(h.free (by simpa using hn)).busy] at hb

/-! ### The changes -/

/-- What stays on pipe `j` keeps the clauses of every other pipe. -/
theorem PipeInv.of_onlyPipe (h : PipeInv s) (hf : OnlyPipe j s t) (hj : PipeOk t j) : PipeInv t := by
  rw [pipeInv_iff] at h ⊢
  intro k
  by_cases hk : k = j
  · exact hk ▸ hj
  · refine (h k).congr hf.cfg (by rw [hf.pipes k hk]; rfl) fun x hx => hf.enb x ?_
    rw [hx]
    exact fun he => hk (Option.some.inj he)

theorem PipeInv.same (h : PipeInv s) (hu : SamePipes s t) : PipeInv t := by
  rw [pipeInv_iff] at h ⊢
  exact fun j => (h j).congr hu.cfg (hu.pipe j) fun x hx => hu.enb x (by simp [hx])

theorem PipeInv.work (h : PipeInv s) (hj : s.InUse j) (hf : OnlyPipe j s t) (hk : KeepsRecord j s t) : PipeInv t := by
  have ho : PipeOk s j := pipeInv_iff.1 h j
  have hc : (t.pipe j).configured = true := hk.configured.trans (ho.configured_of_inUse hj)
  refine h.of_onlyPipe hf ⟨fun _ => hc, fun _ => ?_, fun hn => by simp [hc] at hn, hk.mps ▸ ho.mps, ?_⟩
  · rw [hf.cfg]; exact ho.exist (ho.configured_of_inUse hj)
  · exact Bool.eq_false_iff.2 fun he => Bool.eq_false_iff.1 ho.bemp (hk.bemp he)

/-- The release of an idle pipe (R108): it becomes unused, or is pipe 0 and stays configured. -/
theorem PipeInv.release (h : PipeInv s) (hj : s.busy j = false) :
    PipeInv ((clearStatus j (disableSources j s)).modPipe j (Pipe.release j)) := by
  have ho : PipeOk s j := pipeInv_iff.1 h j
  refine h.of_onlyPipe (j := j) (by simp [OnlyPipe.refl]) ⟨?_, ?_, fun _ => ⟨?_, ?_, ?_, ?_⟩, ?_, ?_⟩
  · intro h0
    simpa [Pipe.release, h0] using ho.zero h0
  · intro hc
    have hs : (s.pipe j).configured = true := by
      by_cases h0 : j = 0
      · exact ho.zero h0
      · simp [Pipe.release, h0] at hc
    simpa using ho.exist hs
  · rw [← hj]
    exact busy_congr fun d => by cases d <;> simp [Pipe.release, Pipe.slot]
  · intro x hx
    simp [disableSources_enb, hx]
  · simp [Pipe.release]
  · simp [Pipe.release]
  · simpa [Pipe.release] using ho.mps
  · simp [disableSources_enb, Source.pipe?]

theorem PipeInv.configure (h : PipeInv s) (hj : j.val < s.cfg.numPipes) (ty : TType) (d : UsbDir) {m : Nat}
    (a : Option (BitVec 7)) (hm : 1 ≤ m ∧ m ≤ 1024) :
    PipeInv (clearStatus j (disableSources j (s.modPipe j (Pipe.configure j ty d m a)))) := by
  refine h.of_onlyPipe (j := j) (by simp [OnlyPipe.refl]) ⟨?_, ?_, ?_, ?_, ?_⟩
  · simp [Pipe.configure]
  · simpa using fun _ => hj
  · simp [Pipe.configure]
  · simpa [Pipe.configure] using hm
  · simp [disableSources_enb, Source.pipe?]

theorem PipeSteps.pipeInv (h : PipeSteps i s t) (hs : PipeInv s) : PipeInv t := by
  induction h with
  | start => exact hs
  | same _ hu ih => exact ih.same hu
  | work _ j hj hf hk ih => exact ih.work hj hf hk
  | release _ j hj ih => exact ih.release hj
  | configure _ j ty d m a _ hj hm ih => exact ih.configure hj ty d a hm

/-- The mark `wedged` is cleared by `CONFIGURE_PIPE` only (R101, R107). -/
theorem PipeSteps.wedged (h : PipeSteps i s t) (hs : (s.pipe j).wedged = true) :
    (t.pipe j).wedged = true ∨ Configures i j := by
  induction h with
  | start => exact .inl hs
  | same _ hu ih =>
    have hw := (hu.pipe j).field Pipe.wedged
    exact ih.imp_left hw.trans
  | work _ k hk hf hr ih =>
    refine ih.imp_left fun hw => ?_
    by_cases hj : j = k
    · subst hj; exact hr.wedged hw
    · rw [hf.pipes j hj]; exact hw
  | release _ k _ ih =>
    refine ih.imp_left fun hw => ?_
    rw [modPipe_pipe]
    split
    · next hk => subst hk; simpa [Pipe.release] using hw
    · simpa using hw
  | configure _ k ty d m a hi _ _ ih =>
    by_cases hj : k = j
    · exact .inr (hj ▸ hi)
    · simpa [hj] using ih

/-! ### Every step -/

theorem runInput_pipeInv (x : Input) (hs : PipeInv s) : NextMeets PipeInv (runInput x s) :=
  runInput_meets (fun i t ht => (exec_pipeSteps i t ht).pipeInv hs) fun _ => hs.same .of_eq

/-- Settles O18: each change of `PipeSteps` keeps the invariant of the pipe records. -/
theorem stepKeepsPipeInv : Obligations.StepKeepsPipeInv := by
  intro s t hs h
  cases hin : s.inbox with
  | nil =>
    rw [step_of_inbox_nil hin] at h
    cases h
    exact hs
  | cons x rest =>
    rw [step_of_inbox_cons hin] at h
    exact runInput_pipeInv x (hs.same (t := s.setInbox rest) .of_eq) t h

end Sys2Proof.Machine
end

section
/-! SUPPORT. The three commands of the Pipe/FIFO Manager (R101, R103, R108) and the commands on a wedged pipe (R107). -/

namespace Sys2Proof.Machine

variable {s t : State} {i : PipeId} {idx : BitVec 8}

/-! ### `CONFIGURE_PIPE` -/

section Configure

variable {ty : TType} {d : UsbDir} {m : BitVec 11} {a : Option (BitVec 7)}

/-- The arguments R101 allows. -/
theorem configureArgsOk_iff {mode : Mode} : configureArgsOk mode i ty d m a = true ↔
    1 ≤ m.toNat ∧ m.toNat ≤ 1024 ∧ (i = 0 → ty = .control ∧ d = .out) ∧ (i ≠ 0 → ty ≠ .control) ∧
      (mode = .host → a ≠ none) ∧ (mode = .peripheral → a = none) := by
  by_cases hi : i = 0
  · cases mode <;> simp [configureArgsOk, hi, and_assoc, Option.isSome_iff_ne_none]
  · cases mode <;> simp [configureArgsOk, hi, and_assoc, Option.isSome_iff_ne_none]

theorem exec_configurePipe (hi : s.pipeOf? idx.toNat = some i) : exec (.configurePipe idx ty d m a) s =
    if configureArgsOk s.cfg.mode i ty d m a = false then .next (s.returns .invalidArg)
    else if s.busy i then .next (s.returns .busy)
    else .next ((clearStatus i (disableSources i (s.modPipe i (Pipe.configure i ty d m.toNat a)))).returns .ok) := by
  simp only [exec, execConfigurePipe, hi]

/-- Settles O25: the argument checks are those of R101, and the frame of what is written is that of one pipe. -/
theorem configurePipe : Obligations.ConfigurePipe := by
  refine fun idx ty d m a s => ⟨fun hn => by simp [exec, execConfigurePipe, pipeOf?_none hn], fun i hi => ?_⟩
  rw [exec_configurePipe hi]
  refine ⟨fun hbad => ?_, fun h1 h2 h3 h4 h5 h6 => ?_⟩
  · have hargs : configureArgsOk s.cfg.mode i ty d m a = false := by
      rw [Bool.eq_false_iff, ne_eq, configureArgsOk_iff]
      rintro ⟨h1, h2, h3, h4, h5, h6⟩
      obtain h | h | ⟨h, h' | h'⟩ | ⟨h, h'⟩ | ⟨h, h'⟩ | ⟨h, h'⟩ := hbad
      · omega
      · omega
      · exact h' (h3 h).1
      · exact h' (h3 h).2
      · exact h4 h h'
      · exact h5 h h'
      · exact h' (h6 h)
    rw [if_pos hargs]
  · rw [if_neg (by simp [configureArgsOk_iff.2 ⟨h1, h2, h3, h4, h5, h6⟩])]
    refine ⟨fun hb => by rw [if_pos hb], fun hb => ⟨_, by rw [if_neg (by simp [hb])], rfl, ?_, ?_, ?_, ?_⟩⟩
    · simp [Pipe.configure]
    · exact fun x hx => by simp [disableSources_enb, clearStatus_sts, hx]
    · simp [OnlyPipe.refl]
    · constructor <;> simp

end Configure

/-! ### `RELEASE_PIPE` -/

theorem exec_releasePipe (hi : s.pipeOf? idx.toNat = some i) :
    exec (.releasePipe idx) s = .next ((releasePipe i s).returns .ok) := by
  simp only [exec, execReleasePipe, hi]

theorem Pipe.release_release (q : Pipe) : (q.release i).release i = q.release i := by
  unfold Pipe.release
  split <;> rfl

theorem releasePipe_busy : (releasePipe i s).busy i = false := by
  rw [← terminateIfBusy_busy (s := s) i .stopped]
  exact busy_congr fun d => by cases d <;> simp [releasePipe, Pipe.release, Pipe.slot]

/-- Sources that are off stay as they are when disabled again. -/
theorem disableSources_self (h : ∀ x : Source, x.pipe? = some i → s.enb x = false) : disableSources i s = s := by
  obtain ⟨hb, hn, he⟩ := forall_source_of_pipe.1 h
  rw [disableSources, setEnb_self s _ _ hb, setEnb_self s _ _ hn, setEnb_self s _ _ he]

theorem clearStatus_self (h : ∀ x : Source, x.pipe? = some i → s.sts x = false) : clearStatus i s = s := by
  obtain ⟨hb, hn, he⟩ := forall_source_of_pipe.1 h
  rw [clearStatus, setSts_self s _ _ hb, setSts_self s _ _ hn, setSts_self s _ _ he]

/-- A pipe that is idle, quiet and has a released record stays exactly as it is (R108). -/
theorem releasePipe_self (hb : s.busy i = false) (he : ∀ x : Source, x.pipe? = some i → s.enb x = false)
    (hs : ∀ x : Source, x.pipe? = some i → s.sts x = false) (hr : Pipe.release i (s.pipe i) = s.pipe i) :
    releasePipe i s = s := by
  have ht : terminateIfBusy i .stopped s = s := by simp [terminateIfBusy, hb]
  rw [releasePipe, ht, disableSources_self he, clearStatus_self hs, modPipe_self s i _ hr]

/-- What `ReleasePipe` left is released already, whatever status was returned (R108). -/
theorem Released.releasePipe_returns (hr : Released i t s) (hb : s.busy i = false) (r : Status) :
    releasePipe i (s.returns r) = s.returns r := by
  have hrec : Pipe.release i (s.pipe i) = s.pipe i := by
    rw [hr.record]
    exact Pipe.release_release (i := i) (t.pipe i)
  exact releasePipe_self hb hr.enb hr.sts hrec

protected theorem SameData.returns (h : SameData s t) (r : Status) : SameData s (t.returns r) := by
  obtain ⟨hp, hc, hm, hk, htx, hfi, hti, hcb, hd⟩ := h
  exact ⟨hp, hc, hm, hk, htx, hfi, hti, hcb, hd⟩

/-- A second release changes nothing (R108). -/
theorem exec_releasePipe_again (hi : s.pipeOf? idx.toNat = some i) :
    exec (.releasePipe idx) ((releasePipe i s).returns .ok) = .next ((releasePipe i s).returns .ok) := by
  have hframe : OnlyPipe i s ((releasePipe i s).returns .ok) := by simp [OnlyPipe.refl]
  rw [exec_releasePipe ((pipeOf?_congr hframe.cfg _).trans hi), releasePipe_released.releasePipe_returns releasePipe_busy,
    returns_self _ _ (returns_ret _ _)]

/-- Settles O26: the release is the end of what is outstanding and then what `Released` says. -/
theorem releasePipeCommand : Obligations.ReleasePipe := by
  refine fun idx s => ⟨fun hn => by simp [exec, execReleasePipe, pipeOf?_none hn], fun i hi => ?_⟩
  have hr : Released i (terminateIfBusy i .stopped s) (releasePipe i s) := releasePipe_released
  refine ⟨terminateIfBusy i .stopped s, (releasePipe i s).returns .ok, terminateIfBusy_ended .stopped (by decide),
    exec_releasePipe hi, returns_ret _ _, ?_, ?_, ?_, ?_, ?_⟩
  · rw [returns_pipe]; exact hr.record
  · intro x hx
    rw [returns_enb, returns_sts]
    exact ⟨hr.enb x hx, hr.sts x hx⟩
  · exact (onlyPipe_returns .ok).2 hr.frame
  · exact hr.data.returns .ok
  · exact exec_releasePipe_again hi

/-! ### `ACQUIRE_PORT` -/

theorem exec_acquirePort (hi : s.pipeOf? idx.toNat = some i) (f : FPort) : exec (.acquirePort idx f) s =
    if (s.pipe i).configured = false then .next (s.returns .invalidState)
    else if (s.pipe i).wedged then .next (s.returns .portWedgedNow)
    else .next (acquireResult i (acquirePort i f s)) := by
  simp only [exec, execAcquirePort, hi]

theorem acquireResult_ok {r : Bool × State} (h : r.1 = true) : acquireResult i r = r.2.returns .ok := by
  simp [acquireResult, h]

theorem acquireResult_failed {r : Bool × State} (h : r.1 = false) :
    acquireResult i r = (terminateIfBusy i .portWedged r.2).returns .portWedgedNow := by
  simp [acquireResult, h]

/-- Settles O27: the port procedure binds the port or refuses it, and a refusal ends what is outstanding. -/
theorem acquirePortCommand : Obligations.AcquirePortCommand := by
  refine fun idx f s => ⟨fun hn => by simp [exec, execAcquirePort, pipeOf?_none hn], fun i hi => ?_⟩
  rw [exec_acquirePort hi]
  refine ⟨fun hc => by rw [if_pos hc], fun hc hw => by simp [hc, hw], fun hc hw => ?_⟩
  rw [if_neg (by simp [hc]), if_neg (by simp [hw])]
  constructor
  · intro hcan
    exact ⟨_, acquirePort_acquired f hcan, by rw [acquireResult_ok ((acquirePort_ok_iff f).2 hcan)]⟩
  · intro hcan
    obtain ⟨hfail, hport⟩ := acquirePort_failed f hcan
    exact ⟨_, _, hport, terminateIfBusy_ended .portWedged (by decide), by rw [acquireResult_failed hfail]⟩

/-! ### A wedged pipe -/

theorem clearPort_failed_port {p : FPort} (h : (clearPort p s).1 = false) (q : FPort) :
    (clearPort p s).2.port q = s.port q := by
  have hspin : s.cfg.portClearMaxSpin < (drawClearPolls s).1 :=
    Nat.lt_of_not_le fun hle => by simp [clearPort_ok p hle] at h
  simp [clearPort_fail p hspin]

/-- What a command on a wedged pipe returns: whether the pipe is configured is tested first (R103, R120, R151). -/
def State.wedgedStatus (s : State) (i : PipeId) : Status :=
  if (s.pipe i).configured then .portWedgedNow else .invalidState

theorem startCommon_wedged (h : (s.pipe i).wedged = true) (d : Dir) (b l c : Word) :
    startCommon i d b l c s = s.returns (s.wedgedStatus i) := by
  cases hc : (s.pipe i).configured <;> simp [startCommon, State.wedgedStatus, hc, h]

theorem dmaStart_wedged (h : (s.pipe i).wedged = true) (b l : Word) (p : DPort) (c : Word) :
    dmaStart i b l p c s = s.returns (s.wedgedStatus i) := by
  cases hc : (s.pipe i).configured <;> simp [dmaStart, State.wedgedStatus, hc, h]

theorem exec_acquirePort_wedged (hi : s.pipeOf? idx.toNat = some i) (h : (s.pipe i).wedged = true) (f : FPort) :
    exec (.acquirePort idx f) s = .next (s.returns (s.wedgedStatus i)) := by
  rw [exec_acquirePort hi]
  cases hc : (s.pipe i).configured <;> simp [State.wedgedStatus, hc, h]

theorem exec_dmaStart (hi : s.pipeOf? idx.toNat = some i) (h0 : i ≠ 0) (b l : Word) (p : DPort) (c : Word) :
    exec (.dmaStart idx b l p.fport c) s = .next (dmaStart i b l p c s) := by
  cases p <;> simp [exec, execDmaStart, hi, h0, DPort.fport, FPort.dma?]

theorem exists_fport_eq {f : FPort} (h : f ≠ .c) : ∃ p : DPort, p.fport = f := by
  cases f with
  | c => exact absurd rfl h
  | d0 => exact ⟨.d0, rfl⟩
  | d1 => exact ⟨.d1, rfl⟩

/-- Settles O28: a failed clear uses a draw and nothing else; `wedged` stays by `PipeSteps`; each command on the pipe
tests it before it changes anything. -/
theorem wedgedPipe : Obligations.WedgedPipe := by
  refine ⟨fun p q s h => clearPort_failed_port h q, fun i s t j h hw => (exec_pipeSteps i t h).wedged hw, ?_⟩
  intro idx i s b l c f hi hw
  refine ⟨?_, ?_, exec_acquirePort_wedged hi hw f, fun h0 hf => ?_⟩
  · exact (exec_request hi .rx b l c).trans (by rw [startCommon_wedged hw]; rfl)
  · exact (exec_request hi .tx b l c).trans (by rw [startCommon_wedged hw]; rfl)
  · obtain ⟨p, rfl⟩ := exists_fport_eq hf
    rw [exec_dmaStart hi h0, dmaStart_wedged hw]
    rfl

end Sys2Proof.Machine
end

section
/-! SUPPORT. `READ`, `WRITE` and `STOP` (R120 to R123, R131): the tests of a submission in their order, and what becomes
of one that passes them. -/

namespace Sys2Proof.Machine

variable {s v : State} {i : PipeId} {idx : BitVec 8} {d : Dir} {b l c : Word}

/-! ### The tests of R120 before the slot and the port -/

/-- The pipe may carry the request: it is configured and not wedged, it has the direction, and the buffer does not pass
the end of memory (R120, R62). -/
structure State.Admits (s : State) (i : PipeId) (d : Dir) (b l : Word) : Prop where
  configured : (s.pipe i).configured = true
  unwedged : (s.pipe i).wedged = false
  dir : i ≠ 0 → s.xdir i = d
  fits : b.toNat + l.toNat ≤ 2 ^ 32

theorem bufferWraps_iff : bufferWraps b l = true ↔ 2 ^ 32 < b.toNat + l.toNat := by simp [bufferWraps]

theorem exec_request_none (h : s.cfg.numPipes ≤ idx.toNat) (d : Dir) (b l c : Word) :
    exec (d.request idx b l c) s = .next (s.returns .invalidArg) := by
  cases d <;> simp [Dir.request, exec, execRead, execWrite, pipeOf?_none h]

theorem startCommon_unconfigured (h : (s.pipe i).configured = false) :
    startCommon i d b l c s = s.returns .invalidState := by
  rw [startCommon, if_pos h]

theorem startCommon_badArgs (hc : (s.pipe i).configured = true) (hw : (s.pipe i).wedged = false)
    (h : (i ≠ 0 ∧ s.xdir i ≠ d) ∨ 2 ^ 32 < b.toNat + l.toNat) : startCommon i d b l c s = s.returns .invalidArg := by
  rw [startCommon, if_neg (by simp [hc]), if_neg (by simp [hw])]
  by_cases hd : i ≠ 0 ∧ s.xdir i ≠ d
  · rw [if_pos hd]
  · rw [if_neg hd, if_pos (bufferWraps_iff.2 (h.resolve_left hd))]

theorem State.Admits.startCommon_eq (h : s.Admits i d b l) : startCommon i d b l c s =
    if ((s.pipe i).slot d).state ≠ .idle then s.returns .queueOverrun
    else if (acquirePort i .c s).1 then (pushFirst i d (armCpu i d b l c (acquirePort i .c s).2)).returns .ok
    else (terminateIfBusy i .portWedged (acquirePort i .c s).2).returns .portWedgedNow := by
  obtain ⟨hc, hw, hd, hf⟩ := h
  rw [startCommon, if_neg (by simp [hc]), if_neg (by simp [hw]), if_neg fun hn => hn.2 (hd hn.1),
    if_neg (by rw [bufferWraps_iff]; exact Nat.not_lt.2 hf)]

/-! ### The outcomes of an admitted request -/

theorem State.Admits.startCommon_overrun (h : s.Admits i d b l) (hb : ((s.pipe i).slot d).state ≠ .idle) :
    startCommon i d b l c s = s.returns .queueOverrun := by
  rw [h.startCommon_eq, if_pos hb]

theorem State.Admits.startCommon_accepted (h : s.Admits i d b l) (hi : ((s.pipe i).slot d).state = .idle)
    (hcan : s.CanAcquire i .c) : startCommon i d b l c s =
      (pushFirst i d (armCpu i d b l c (acquirePort i .c s).2)).returns .ok := by
  rw [h.startCommon_eq, if_neg (not_not.2 hi), if_pos ((acquirePort_ok_iff .c).2 hcan)]

theorem State.Admits.startCommon_refused (h : s.Admits i d b l) (hi : ((s.pipe i).slot d).state = .idle)
    (hcan : ¬ s.CanAcquire i .c) : startCommon i d b l c s =
      (terminateIfBusy i .portWedged (acquirePort i .c s).2).returns .portWedgedNow := by
  rw [h.startCommon_eq, if_neg (not_not.2 hi), if_neg (by simp [(acquirePort_failed .c hcan).1])]

/-! ### One chunk through the port -/

/-- A pipe that can take `PORT_C` sends its chunk through it (R125). -/
theorem writeChunk_acquired (h : s.CanAcquire i .c) : writeChunk i s = writeOwned i (acquirePort i .c s).2 :=
  if_pos ((acquirePort_ok_iff .c).2 h)

theorem writeChunk_refused (h : ¬ s.CanAcquire i .c) :
    writeChunk i s = terminateAll i .portWedged (acquirePort i .c s).2 :=
  if_neg (by simp [(acquirePort_failed .c h).1])

/-- A pipe that owns `PORT_C` sends its chunk with "no register access" for the port (R104, R125). -/
theorem writeChunk_owned (ho : (s.port .c).owner = some i) (hs : (s.port .c).stage = []) :
    ChunkWritten i s (writeChunk i s) := by
  rw [writeChunk_acquired (.inl ho), acquirePort_owned .c ho]
  exact writeOwned_chunk hs

theorem pushFirst_no (h : d = .rx ∨ s.cfg.pushFirstOnWrite = false) : pushFirst i d s = s :=
  if_neg fun ⟨hd, hp⟩ => by rcases h with h | h <;> simp_all

theorem pushFirst_write (h : s.cfg.pushFirstOnWrite = true) : pushFirst i .tx s = writeChunk i s := if_pos ⟨rfl, h⟩

theorem Acquired.cfg {f : FPort} (h : Acquired i f s v) : v.cfg = s.cfg := by
  unfold Acquired at h
  split at h
  · rw [h]
  · exact PortTaken.cfg h

/-! ### The obligations -/

/-- Settles O29: the port is acquired and the slot armed; a pushed chunk finds `PORT_C` owned and nothing staged. -/
theorem submissionAccepted : Obligations.SubmissionAccepted := by
  intro d idx b l c s i hi hc hw hd hf hidle hcan
  have hadm : s.Admits i d b l := ⟨hc, hw, hd, hf⟩
  have hacq : Acquired i .c s (acquirePort i .c s).2 := acquirePort_acquired .c hcan
  have harm : Accepted i d b l c (acquirePort i .c s).2 (armCpu i d b l c (acquirePort i .c s).2) :=
    armCpu_accepted d b l c
  have hcfg : (armCpu i d b l c (acquirePort i .c s).2).cfg = s.cfg := harm.frame.cfg.trans hacq.cfg
  rw [exec_request hi, hadm.startCommon_accepted hidle hcan]
  constructor
  · intro hno
    exact ⟨_, _, hacq, harm, by rw [pushFirst_no (by rwa [hcfg])]⟩
  · rintro rfl hpush hstage
    refine ⟨_, _, _, hacq, harm, writeChunk_owned ?_ ?_, by rw [pushFirst_write (by rwa [hcfg])]⟩
    · rw [harm.data.ports]; exact hacq.owner
    · rw [harm.data.ports]; exact hacq.stage hstage

/-- Settles O30: each test of R120 in its order, the last being the port. -/
theorem submissionRejected : Obligations.SubmissionRejected := by
  refine fun d idx b l c s => ⟨fun hn => exec_request_none hn d b l c, fun i hi => ?_⟩
  rw [exec_request hi]
  refine ⟨fun hc => ?_, fun hc hw => ?_, fun hc hw => ⟨fun hbad => ?_, fun hd hf =>
    ⟨fun hbusy => ?_, fun hidle hcan => ?_⟩⟩⟩
  · rw [startCommon_unconfigured hc]
  · rw [startCommon_wedged hw, State.wedgedStatus, if_pos hc]
  · rw [startCommon_badArgs hc hw hbad]
  · rw [State.Admits.startCommon_overrun ⟨hc, hw, hd, hf⟩ hbusy]
  · exact ⟨_, _, (acquirePort_failed .c hcan).2, terminateIfBusy_ended .portWedged (by decide),
      by rw [State.Admits.startCommon_refused ⟨hc, hw, hd, hf⟩ hidle hcan]⟩

theorem exec_stop (hi : s.pipeOf? idx.toNat = some i) :
    exec (.stop idx) s = .next ((terminateIfBusy i .stopped s).returns .ok) := by
  simp only [exec, execStop, hi]

theorem terminateIfBusy_idle (h : s.busy i = false) (r : Result) : terminateIfBusy i r s = s := by
  simp [terminateIfBusy, h]

theorem terminateIfBusy_busy_eq (h : s.busy i = true) (r : Result) : terminateIfBusy i r s = terminateAll i r s :=
  if_pos h

/-- Settles O31: `STOP` is the forced termination of a busy pipe and nothing on an idle one. -/
theorem stop : Obligations.Stop := by
  refine fun idx s => ⟨fun hn => by simp [exec, execStop, pipeOf?_none hn], fun i hi => ?_⟩
  rw [exec_stop hi]
  constructor
  · intro hidle
    rw [terminateIfBusy_idle hidle]
  · intro hbusy
    exact ⟨_, terminateAll_terminated .stopped (by decide), by rw [terminateIfBusy_busy_eq hbusy]⟩

end Sys2Proof.Machine
end

section
/-! SUPPORT. The handlers of the CPU path (R124 to R127, R132): which procedure each runs, and what it does. -/

namespace Sys2Proof.Machine

variable {s v : State} {i : PipeId} {p : BitVec 5}

theorem exec_hBrdy (hi : s.pipeOf? p.toNat = some i) : exec (.hBrdy p) s = .next (handleBrdy i s) := by
  simp only [exec, execHBrdy, hi]

theorem exec_hBemp (hi : s.pipeOf? p.toNat = some i) : exec (.hBemp p) s = .next s := by
  simp only [exec, execHBemp, hi, handleBemp]

theorem exec_hNrdy (hi : s.pipeOf? p.toNat = some i) : exec (.hNrdy p) s = .next (handleNrdy i s) := by
  simp only [exec, execHNrdy, hi]

/-! ### `H_BRDY` -/

/-- A buffer-ready event on an armed slot clears the not-ready count (R124). -/
def clearIgnored (i : PipeId) (s : State) : State := s.modPipe i fun q => { q with ignoreCnt := 0 }

theorem handleBrdy_notArmed (h : ((s.pipe i).slot (s.route i)).state ≠ .armed) : handleBrdy i s = s := if_pos h

theorem handleBrdy_write (hr : s.route i = .tx) (ha : (s.pipe i).slotTx.state = .armed) :
    handleBrdy i s = writeChunk i (clearIgnored i s) := by
  simp [handleBrdy, hr, Pipe.slot, ha, clearIgnored]

theorem handleBrdy_read (hr : s.route i = .rx) (ha : (s.pipe i).slotRx.state = .armed) :
    handleBrdy i s = readChunk i (clearIgnored i s) := by
  simp [handleBrdy, hr, Pipe.slot, ha, clearIgnored]

theorem clearIgnored_pipe : (clearIgnored i s).pipe i = { s.pipe i with ignoreCnt := 0 } := by simp [clearIgnored]

/-- The not-ready count has no part in the port procedure (R104). -/
theorem clearIgnored_canAcquire {f : FPort} : (clearIgnored i s).CanAcquire i f ↔ s.CanAcquire i f :=
  canAcquire_congr rfl rfl rfl

/-! ### `ReadChunk` -/

theorem readChunk_none (h : (s.pipe i).rxFifo = none) : readChunk i s = s := by simp only [readChunk, h]

theorem readChunk_acquired {pkt : List Byte} (h : (s.pipe i).rxFifo = some pkt) (hcan : s.CanAcquire i .c) :
    readChunk i s = readOwned i pkt (acquirePort i .c s).2 := by
  simp only [readChunk, h, (acquirePort_ok_iff .c).2 hcan, if_true]

/-- A pipe that owns `PORT_C` reads its packet with "no register access" for the port (R104, R126). -/
theorem readChunk_owned {pkt : List Byte} (h : (s.pipe i).rxFifo = some pkt) (ho : (s.port .c).owner = some i) :
    PacketRead i pkt s (readChunk i s) := by
  rw [readChunk_acquired h (.inl ho), acquirePort_owned .c ho]
  exact readOwned_read pkt h

theorem readChunk_refused {pkt : List Byte} (h : (s.pipe i).rxFifo = some pkt) (hcan : ¬ s.CanAcquire i .c) :
    readChunk i s = terminateAll i .portWedged (acquirePort i .c s).2 := by
  simp [readChunk, h, (acquirePort_failed .c hcan).1]

/-! ### The obligations about buffer events -/

/-- Settles O32: the chunk goes through the port the handler acquired, and a refused port ends the pipe's requests. -/
theorem bufferReadyOnWrite : Obligations.BufferReadyOnWrite := by
  intro p s i hi hr ha
  rw [exec_hBrdy hi, handleBrdy_write hr ha]
  constructor
  · intro hcan hstage
    have hcan' : (clearIgnored i s).CanAcquire i .c := clearIgnored_canAcquire.2 hcan
    have hacq : Acquired i .c (clearIgnored i s) _ := acquirePort_acquired .c hcan'
    exact ⟨_, _, hacq, writeOwned_chunk (hacq.stage hstage), by rw [writeChunk_acquired hcan']⟩
  · intro hcan
    have hcan' : ¬ (clearIgnored i s).CanAcquire i .c := mt clearIgnored_canAcquire.1 hcan
    exact ⟨_, _, (acquirePort_failed .c hcan').2, terminateAll_terminated .portWedged (by decide),
      by rw [writeChunk_refused hcan']⟩

/-- Settles O33: the packet still waits when the port is acquired, and a refused port ends the pipe's requests. -/
theorem bufferReadyOnRead : Obligations.BufferReadyOnRead := by
  intro p s i pkt hi hr ha hpkt
  have hwait : ((clearIgnored i s).pipe i).rxFifo = some pkt := by rw [clearIgnored_pipe]; exact hpkt
  rw [exec_hBrdy hi, handleBrdy_read hr ha]
  constructor
  · intro hcan
    have hcan' : (clearIgnored i s).CanAcquire i .c := clearIgnored_canAcquire.2 hcan
    have hacq : Acquired i .c (clearIgnored i s) _ := acquirePort_acquired .c hcan'
    exact ⟨_, _, hacq, readOwned_read pkt (by rw [hacq.pipe]; exact hwait), by rw [readChunk_acquired hwait hcan']⟩
  · intro hcan
    have hcan' : ¬ (clearIgnored i s).CanAcquire i .c := mt clearIgnored_canAcquire.1 hcan
    exact ⟨_, _, (acquirePort_failed .c hcan').2, terminateAll_terminated .portWedged (by decide),
      by rw [readChunk_refused hwait hcan']⟩

/-- Settles O34: without an armed slot, or without a packet for the read, there is no chunk to move. -/
theorem spuriousBufferEvents : Obligations.SpuriousBufferEvents := by
  refine fun p s i hi => ⟨fun ha => ?_, fun hr ha hpkt => ?_, exec_hBemp hi⟩
  · rw [exec_hBrdy hi, handleBrdy_notArmed ha]
  · rw [exec_hBrdy hi, handleBrdy_read hr ha, readChunk_none (by rw [clearIgnored_pipe]; exact hpkt)]
    rfl

/-! ### `H_NRDY` -/

theorem handleNrdy_idle (h : ((s.pipe i).slot (s.route i)).state = .idle) : handleNrdy i s = s := if_pos h

theorem handleNrdy_stall (hb : ((s.pipe i).slot (s.route i)).state ≠ .idle) (hp : (s.pipe i).pid = .stall) :
    handleNrdy i s = terminateAll i .stall s := by
  rw [handleNrdy, if_neg hb, if_pos hp]

theorem handleNrdy_isochronous (hb : ((s.pipe i).slot (s.route i)).state ≠ .idle) (hp : (s.pipe i).pid ≠ .stall)
    (ht : (s.pipe i).ttype = .isochronous) : handleNrdy i s = terminateAll i .notReadyExceeded s := by
  rw [handleNrdy, if_neg hb, if_neg hp, if_pos ht]

/-- One more not-ready event of the run (R127). -/
def countIgnored (i : PipeId) (s : State) : State := s.modPipe i fun q => { q with ignoreCnt := q.ignoreCnt + 1 }

theorem countIgnored_pipe : (countIgnored i s).pipe i = { s.pipe i with ignoreCnt := (s.pipe i).ignoreCnt + 1 } := by
  simp [countIgnored]

theorem handleNrdy_counted (hb : ((s.pipe i).slot (s.route i)).state ≠ .idle) (hp : (s.pipe i).pid ≠ .stall)
    (ht : (s.pipe i).ttype ≠ .isochronous) : handleNrdy i s =
      if s.cfg.nrdyCeiling ≤ (s.pipe i).ignoreCnt + 1 then terminateAll i .notReadyExceeded (countIgnored i s)
      else retryNotReady i (countIgnored i s) := by
  rw [handleNrdy, if_neg hb, if_neg hp, if_neg ht]
  simp [countIgnored]

theorem disableSources_modPipe (j : PipeId) (f : Pipe → Pipe) :
    disableSources i (s.modPipe j f) = (disableSources i s).modPipe j f := rfl

theorem clearStatus_modPipe (j : PipeId) (f : Pipe → Pipe) :
    clearStatus i (s.modPipe j f) = (clearStatus i s).modPipe j f := rfl

/-- `TerminateAll` (R130) sets the not-ready count to zero, so the last event of a run leaves no trace of its own. -/
theorem terminateAll_countIgnored (r : Result) : terminateAll i r (countIgnored i s) = terminateAll i r s := by
  have hq : quiesce i (countIgnored i s) = quiesce i s := by
    simp only [quiesce, countIgnored, disableSources_modPipe, clearStatus_modPipe, modPipe_modPipe]
  simp only [terminateAll, hq]

/-- Below the ceiling: one more on the count, the fixed delay, and the buffer is armed again (R127). -/
theorem retryNotReady_countIgnored_pipe : (retryNotReady i (countIgnored i s)).pipe i =
    { s.pipe i with ignoreCnt := (s.pipe i).ignoreCnt + 1, pid := .buf } := by
  simp [retryNotReady, countIgnored]

/-- Settles O35: the cases of R127 in their order; the ceiling counts the event itself. -/
theorem notReady : Obligations.NotReady := by
  intro p s i hi
  rw [exec_hNrdy hi]
  refine ⟨fun hidle => by rw [handleNrdy_idle hidle], fun hb => ⟨fun hp => ?_, fun hp ht => ?_, fun hp ht hc => ?_,
    fun hp ht hc => ?_⟩⟩
  · exact ⟨_, terminateAll_terminated .stall (by decide), by rw [handleNrdy_stall hb hp]⟩
  · exact ⟨_, terminateAll_terminated .notReadyExceeded (by decide), by rw [handleNrdy_isochronous hb hp ht]⟩
  · exact ⟨_, terminateAll_terminated .notReadyExceeded (by decide),
      by rw [handleNrdy_counted hb hp ht, if_pos hc, terminateAll_countIgnored]⟩
  · refine ⟨_, by rw [handleNrdy_counted hb hp ht, if_neg (Nat.not_le.2 hc)],
      retryNotReady_countIgnored_pipe, ?_, ?_, ?_⟩
    · simp [retryNotReady, delay, countIgnored]
    · intro j hj
      simp [retryNotReady, countIgnored, Ne.symm hj]
    · simp [retryNotReady, delay, countIgnored, State.modPipe, State.addTime]

end Sys2Proof.Machine
end

section
/-! SUPPORT. The packet law (R125): what one chunk of a write leaves, and a whole write by buffer-ready events. -/

namespace Sys2Proof.Machine

variable {s t u v : State} {i : PipeId} {p : BitVec 5}

/-! ### The packets of a write, one by one -/

/-- A full packet and then the packets of what follows it (R125). -/
theorem writePackets_append {m : Nat} {a b : List Byte} (hm : 1 ≤ m) (ha : a.length = m) :
    writePackets i m (a ++ b) = ⟨i, a, false⟩ :: writePackets i m b := by
  have hdiv : (a ++ b).length / m = b.length / m + 1 := by
    rw [List.length_append, ha, Nat.add_div_left _ hm]
  have hdrop : ∀ j, (a ++ b).drop ((j + 1) * m) = b.drop (j * m) := by
    intro j
    rw [Nat.succ_mul, Nat.add_comm, ← ha, List.drop_length_add_append]
  have htake : ((a ++ b).drop (0 * m)).take m = a := by simp [← ha]
  simp only [writePackets, hdiv, hdrop, List.range_succ_eq_map, List.map_cons, List.map_map, Function.comp_def,
    Nat.succ_eq_add_one, htake, List.cons_append]

/-- Less than a packet goes out as one short packet (R125). -/
theorem writePackets_short {m : Nat} {b : List Byte} (h : b.length < m) : writePackets i m b = [⟨i, b, true⟩] := by
  simp [writePackets, Nat.div_eq_of_lt h]

/-- The last chunk: a full packet and the null packet, or one short packet (R125). -/
theorem writePackets_last {m : Nat} {b : List Byte} (hm : 1 ≤ m) (h : b.length ≤ m) : writePackets i m b =
    if b.length = m then [⟨i, b, false⟩, ⟨i, [], true⟩] else [⟨i, b, true⟩] := by
  split
  · next he =>
    rw [← List.append_nil b, writePackets_append hm he, writePackets_short hm, List.append_nil]
  · next hne => exact writePackets_short (by omega)

/-! ### One buffer-ready event -/

/-- An armed write is under way on pipe `i`, which owns `PORT_C` with nothing staged. -/
structure Writing (i : PipeId) (s : State) : Prop where
  route : s.route i = .tx
  armed : (s.pipe i).slotTx.state = .armed
  owner : (s.port .c).owner = some i
  stage : (s.port .c).stage = []

/-- What is left of a write has gone out: the packets of its bytes, and the one `Exact` callback (R125). -/
structure WrittenOut (i : PipeId) (s t : State) : Prop where
  txLog : t.txLog = s.txLog ++ writePackets i (s.pipe i).mps
    (memRead s.mem (s.pipe i).slotTx.buf (s.pipe i).slotTx.remaining.toNat)
  cbLog : t.cbLog = s.cbLog ++ [⟨(s.pipe i).slotTx.cb, i, .exact, (s.pipe i).slotTx.reqLen.toNat⟩]
  slot : (t.pipe i).slotTx = Slot.empty
  mem : t.mem = s.mem

/-- A full packet has gone out and the write goes on with what follows it. -/
structure PacketSent (i : PipeId) (s u : State) : Prop where
  cfg : u.cfg = s.cfg
  writing : Writing i u
  mps : (u.pipe i).mps = (s.pipe i).mps
  slot : (u.pipe i).slotTx = (s.pipe i).slotTx.advance (s.pipe i).mps
  txLog : u.txLog = s.txLog ++ [⟨i, memRead s.mem (s.pipe i).slotTx.buf (s.pipe i).mps, false⟩]
  cbLog : u.cbLog = s.cbLog
  mem : u.mem = s.mem

/-- The route of a pipe depends on its own record and the configuration alone (R29). -/
theorem route_congr (hc : t.cfg = s.cfg) (hd : (t.pipe i).dir = (s.pipe i).dir)
    (h : (t.pipe i).curDir = (s.pipe i).curDir) : t.route i = s.route i := by
  by_cases hi : i = 0
  · subst hi
    simpa [State.route] using h
  · simp only [State.route, hi, if_false, State.xdir, hc, hd]

theorem Slot.advance_remaining (x : Slot) (n : Nat) : (x.advance n).remaining.toNat = x.remaining.toNat - n := by
  rw [Slot.advance, BitVec.toNat_ofNat, Nat.mod_eq_of_lt (by have := x.remaining.isLt; omega)]

/-- The chunk of a buffer-ready event, said of the state before the event. -/
theorem Writing.handleBrdy_chunk (h : Writing i s) : ChunkWritten i (clearIgnored i s) (handleBrdy i s) := by
  rw [handleBrdy_write h.route h.armed]
  exact writeChunk_owned h.owner h.stage

/-- More than a packet remains: one full packet goes out (R125). -/
theorem Writing.packetSent (h : Writing i s) (hlt : (s.pipe i).mps < (s.pipe i).slotTx.remaining.toNat) :
    PacketSent i s (handleBrdy i s) := by
  obtain ⟨w, htx, -, hpipe, -, hrest, hend⟩ := h.handleBrdy_chunk
  rw [clearIgnored_pipe] at htx hpipe hend
  simp only [Nat.min_eq_right hlt.le, hlt, if_true] at htx hpipe hend
  rw [hend]
  have hcfg : w.cfg = s.cfg := congrArg (·.cfg) hrest
  have hport : w.port .c = s.port .c := congrArg (·.port .c) hrest
  refine ⟨hcfg, ⟨?_, ?_, hport ▸ h.owner, hport ▸ h.stage⟩, by rw [hpipe], by rw [hpipe]; rfl, htx,
    congrArg (·.cbLog) hrest, congrArg (·.mem) hrest⟩
  · rw [route_congr hcfg (by rw [hpipe]) (by rw [hpipe]), h.route]
  · rw [hpipe]; exact h.armed

/-- No more than a packet remains: the write is finished (R125). -/
theorem Writing.lastPacket (h : Writing i s) (hm : 1 ≤ (s.pipe i).mps)
    (hle : (s.pipe i).slotTx.remaining.toNat ≤ (s.pipe i).mps) : WrittenOut i s (handleBrdy i s) := by
  obtain ⟨w, htx, -, hpipe, -, hrest, hend⟩ := h.handleBrdy_chunk
  rw [clearIgnored_pipe] at htx hpipe hend
  simp only [Nat.min_eq_left hle, lt_irrefl, if_false, Nat.sub_self] at htx hpipe hend
  have hcb : w.cbLog = s.cbLog := congrArg (·.cbLog) hrest
  have hmem : w.mem = s.mem := congrArg (·.mem) hrest
  refine ⟨?_, ?_, ?_, hend.mem.trans hmem⟩
  · rw [hend.logs.1, htx, writePackets_last hm (by simpa using hle), length_memRead]
    rfl
  · rw [hend.callbacks, hpipe, hcb]
    rfl
  · rw [hend.record]
    rfl

/-! ### The whole write -/

/-- The packets of the rest follow the packet that was sent (R125). -/
theorem PacketSent.writtenOut (h : PacketSent i s u) (hm : 1 ≤ (s.pipe i).mps)
    (hlt : (s.pipe i).mps < (s.pipe i).slotTx.remaining.toNat) (hu : WrittenOut i u t) : WrittenOut i s t := by
  obtain ⟨-, -, hmps, hslot, htx, hcb, hmem⟩ := h
  obtain ⟨htx', hcb', hslot', hmem'⟩ := hu
  rw [hslot] at htx' hcb'
  refine ⟨?_, by rw [hcb', hcb]; rfl, hslot', hmem'.trans hmem⟩
  rw [htx', htx, hmps, hmem, Slot.advance_remaining, Slot.advance, List.append_assoc, List.singleton_append,
    ← writePackets_append hm (length_memRead ..), ← memRead_add, Nat.add_sub_cancel' hlt.le]

theorem repeatExec_succ {o : Instr} (n : Nat) (h : exec o s = .next t) : repeatExec o (n + 1) s = repeatExec o n t := by
  simp only [repeatExec, h]

/-- How many events a write of `n` bytes takes (R125). -/
def eventsOfWrite (n m : Nat) : Nat := max 1 ((n + m - 1) / m)

theorem eventsOfWrite_le {n m : Nat} (hm : 1 ≤ m) (h : n ≤ m) : eventsOfWrite n m = 1 := by
  have : (n + m - 1) / m < 2 := (Nat.div_lt_iff_lt_mul hm).2 (by omega)
  unfold eventsOfWrite
  omega

theorem eventsOfWrite_gt {n m : Nat} (hm : 1 ≤ m) (h : m < n) : eventsOfWrite n m = eventsOfWrite (n - m) m + 1 := by
  have hstep : (n + m - 1) / m = (n - m + m - 1) / m + 1 := by
    rw [← Nat.add_div_right _ hm]
    congr 1
    omega
  have hpos : 1 ≤ (n - m + m - 1) / m := (Nat.one_le_div_iff hm).2 (by omega)
  unfold eventsOfWrite
  omega

theorem Writing.repeat_hBrdy (h : Writing i s) (hi : s.pipeOf? p.toNat = some i) (hm : 1 ≤ (s.pipe i).mps) :
    ∃ t, repeatExec (.hBrdy p) (eventsOfWrite (s.pipe i).slotTx.remaining.toNat (s.pipe i).mps) s = .next t ∧
      WrittenOut i s t := by
  induction hn : (s.pipe i).slotTx.remaining.toNat using Nat.strong_induction_on generalizing s with
  | _ n ih =>
    subst hn
    by_cases hlt : (s.pipe i).mps < (s.pipe i).slotTx.remaining.toNat
    · have hsent : PacketSent i s (handleBrdy i s) := h.packetSent hlt
      have hrem : ((handleBrdy i s).pipe i).slotTx.remaining.toNat =
          (s.pipe i).slotTx.remaining.toNat - (s.pipe i).mps := by
        rw [hsent.slot, Slot.advance_remaining]
      obtain ⟨t, hrun, hout⟩ := ih _ (by omega) hsent.writing ((pipeOf?_congr hsent.cfg _).trans hi)
        (hsent.mps.symm ▸ hm) hrem
      refine ⟨t, ?_, hsent.writtenOut hm hlt hout⟩
      rw [hsent.mps] at hrun
      rw [eventsOfWrite_gt hm hlt, repeatExec_succ _ (exec_hBrdy hi), hrun]
    · rw [eventsOfWrite_le hm (Nat.le_of_not_lt hlt)]
      exact ⟨_, repeatExec_succ 0 (exec_hBrdy hi), h.lastPacket hm (Nat.le_of_not_lt hlt)⟩

/-- Settles O36, by induction on the bytes that remain. -/
theorem wholeWrite : Obligations.WholeWrite := by
  intro p s i hi hr ha ho hs hm
  obtain ⟨t, hrun, htx, hcb, hslot, hmem⟩ := Writing.repeat_hBrdy ⟨hr, ha, ho, hs⟩ hi hm
  exact ⟨t, hrun, htx, hcb, hslot, hmem⟩

end Sys2Proof.Machine
end

section
/-! SUPPORT. The read law (R126, R231): a run of addresses filled piece by piece, what one packet leaves, and a whole
read by packets. -/

namespace Sys2Proof.Machine

variable {s t u v : State} {i : PipeId} {p : BitVec 5} {idx : BitVec 8}

/-! ### Filling memory piece by piece (R61, R62) -/

/-- The addresses from `a` up hold `bs`, and every other address is as before. -/
structure Filled (a : Word) (bs : List Byte) (m m' : Memory) : Prop where
  inside : ∀ k (h : k < bs.length), Memory.read m' (a + BitVec.ofNat 32 k).toNat = bs[k]
  outside : ∀ x, ¬ inRange a bs.length x → Memory.read m' x = Memory.read m x

theorem inRange_mono {a : Word} {n k x : Nat} (hnk : n ≤ k) (h : inRange a n x) : inRange a k x := by
  obtain ⟨j, hj, hx⟩ := h
  exact ⟨j, by omega, hx⟩

theorem inRange_shift {a : Word} {n k x : Nat} (h : inRange (a + BitVec.ofNat 32 n) k x) : inRange a (n + k) x := by
  obtain ⟨j, hj, hx⟩ := h
  exact ⟨n + j, by omega, by rw [← BitVec.ofNat_add_ofNat, ← BitVec.add_assoc, hx]⟩

/-- A run of addresses that does not wrap onto itself does not reach its own start again. -/
theorem not_inRange_shift {a : Word} {n k j : Nat} (hnk : n + k ≤ 2 ^ 32) (hj : j < n) :
    ¬ inRange (a + BitVec.ofNat 32 n) k (a + BitVec.ofNat 32 j).toNat := by
  rintro ⟨l, hl, hx⟩
  have he := BitVec.eq_of_toNat_eq hx
  rw [BitVec.add_assoc, BitVec.ofNat_add_ofNat] at he
  have hn := congrArg BitVec.toNat ((BitVec.add_right_inj a).1 he)
  rw [BitVec.toNat_ofNat, BitVec.toNat_ofNat, Nat.mod_eq_of_lt (by omega), Nat.mod_eq_of_lt (by omega)] at hn
  omega

theorem Filled.append {a : Word} {b c : List Byte} {m m' m'' : Memory} (h : Filled a b m m')
    (g : Filled (a + BitVec.ofNat 32 b.length) c m' m'') (hl : b.length + c.length ≤ 2 ^ 32) :
    Filled a (b ++ c) m m'' := by
  constructor
  · intro k hk
    by_cases hkb : k < b.length
    · rw [g.outside _ (not_inRange_shift hl hkb), h.inside k hkb, List.getElem_append_left hkb]
    · have hkc : k - b.length < c.length := by rw [List.length_append] at hk; omega
      rw [List.getElem_append_right (Nat.le_of_not_lt hkb), ← g.inside _ hkc, BitVec.add_assoc, BitVec.ofNat_add_ofNat,
        Nat.add_sub_cancel' (Nat.le_of_not_lt hkb)]
  · intro x hx
    rw [List.length_append] at hx
    rw [g.outside x fun hc => hx (inRange_shift hc), h.outside x fun hb => hx (inRange_mono (Nat.le_add_right _ _) hb)]

/-! ### A packet arrives -/

/-- An armed read is under way on pipe `i`, which owns `PORT_C`, and the next packet can arrive (R231). -/
structure Reading (i : PipeId) (s : State) : Prop where
  configured : (s.pipe i).configured = true
  route : s.route i = .rx
  armed : (s.pipe i).slotRx.state = .armed
  pid : (s.pipe i).pid = .buf
  noPacket : (s.pipe i).rxFifo = none
  owner : (s.port .c).owner = some i

/-- The packet `pkt` waits on pipe `i` in `v`, which is otherwise as `s` in all that a read depends on (R231, R244). -/
structure PacketWaits (i : PipeId) (pkt : List Byte) (s v : State) : Prop where
  cfg : v.cfg = s.cfg
  pipe : (v.pipe i).SameButToggle { s.pipe i with rxFifo := some pkt, ignoreCnt := 0 }
  owner : (v.port .c).owner = (s.port .c).owner
  mem : v.mem = s.mem
  txLog : v.txLog = s.txLog
  cbLog : v.cbLog = s.cbLog

/-- What `HW_RX_PACKET` leaves (R231). -/
def packetArrived (i : PipeId) (pkt : List Byte) (s : State) : State :=
  hwToggles ((s.modPipe i fun q => { q with rxFifo := some pkt }).setSts (.brdy i) true)

theorem exec_hwRxPacket {pkt : List Byte} (hi : s.pipeOf? idx.toNat = some i) (h : Reading i s)
    (hl : pkt.length ≤ (s.pipe i).mps) (hm : (s.pipe i).mps < 2 ^ 32) :
    exec (.hwRxPacket idx pkt) s = .next (packetArrived i pkt s) := by
  have hcan : s.canReceive i pkt.length = true := by
    obtain ⟨hc, hr, ha, hp, hn, -⟩ := h
    simp [State.canReceive, hc, hr, ha, hp, hn, hl]
  simp only [exec, execHwRxPacket, hwPipeStep, hi, hcan, if_neg (show ¬ 2 ^ 32 ≤ pkt.length by omega), if_true]
  rfl

theorem packetArrived_cfg (pkt : List Byte) : (packetArrived i pkt s).cfg = s.cfg := by simp [packetArrived]

theorem packetArrived_pipe (pkt : List Byte) :
    ((packetArrived i pkt s).pipe i).SameButToggle { s.pipe i with rxFifo := some pkt } := by
  unfold packetArrived
  refine (hwToggles_same i).trans ?_
  simp

theorem Pipe.SameButToggle.clearIgnoreCnt {a b : Pipe} (h : a.SameButToggle b) :
    ({ a with ignoreCnt := 0 } : Pipe).SameButToggle { b with ignoreCnt := 0 } :=
  (congrArg (fun q : Pipe => { q with ignoreCnt := 0 }) h :)

theorem packetWaits (pkt : List Byte) : PacketWaits i pkt s (clearIgnored i (packetArrived i pkt s)) := by
  constructor
  case pipe =>
    rw [clearIgnored_pipe]
    exact (packetArrived_pipe pkt).clearIgnoreCnt
  all_goals simp [packetArrived, clearIgnored]

/-- The buffer-ready handler takes the packet that arrived (R124, R126). -/
theorem Reading.handleBrdy_packet (h : Reading i s) (pkt : List Byte) :
    PacketRead i pkt (clearIgnored i (packetArrived i pkt s)) (handleBrdy i (packetArrived i pkt s)) := by
  have hsame := packetArrived_pipe (i := i) (s := s) pkt
  have hslot : ((packetArrived i pkt s).pipe i).slotRx = (s.pipe i).slotRx := hsame.field Pipe.slotRx
  have hroute : (packetArrived i pkt s).route i = s.route i :=
    route_congr (packetArrived_cfg pkt) (hsame.field Pipe.dir) (hsame.field Pipe.curDir)
  have hwaits : PacketWaits i pkt s (clearIgnored i (packetArrived i pkt s)) := packetWaits pkt
  rw [handleBrdy_read (hroute.trans h.route) (by rw [hslot]; exact h.armed)]
  exact readChunk_owned (hwaits.pipe.field Pipe.rxFifo) (hwaits.owner.trans h.owner)

/-! ### One packet of a read -/

/-- A read has ended with the packets that carried `bs`: their bytes are in memory up to the length asked for, and there
is the one callback with its result (R126, R250). -/
structure ReadEnded (i : PipeId) (bs : List Byte) (s t : State) : Prop where
  filled : Filled (s.pipe i).slotRx.buf (bs.take (s.pipe i).slotRx.remaining.toNat) s.mem t.mem
  cbLog : t.cbLog = s.cbLog ++
    [⟨(s.pipe i).slotRx.cb, i,
      if (s.pipe i).slotRx.remaining.toNat < bs.length then .overrun
      else if (s.pipe i).slotRx.remaining.toNat = bs.length then .exact
      else .shortPacket,
      (s.pipe i).slotRx.reqLen.toNat -
        ((s.pipe i).slotRx.remaining.toNat - min (s.pipe i).slotRx.remaining.toNat bs.length)⟩]
  slot : (t.pipe i).slotRx = Slot.empty
  txLog : t.txLog = s.txLog

/-- A packet has been read and the read goes on behind its bytes. -/
structure PacketTaken (i : PipeId) (pkt : List Byte) (s u : State) : Prop where
  cfg : u.cfg = s.cfg
  reading : Reading i u
  mps : (u.pipe i).mps = (s.pipe i).mps
  slot : (u.pipe i).slotRx = (s.pipe i).slotRx.advance pkt.length
  filled : Filled (s.pipe i).slotRx.buf pkt s.mem u.mem
  cbLog : u.cbLog = s.cbLog
  txLog : u.txLog = s.txLog

section Waiting

variable {pkt : List Byte} (hw : PacketWaits i pkt s v)

include hw

theorem PacketWaits.slotRx : (v.pipe i).slotRx = (s.pipe i).slotRx := hw.pipe.field Pipe.slotRx

theorem PacketWaits.mps : (v.pipe i).mps = (s.pipe i).mps := hw.pipe.field Pipe.mps

/-- The bytes of the packet that the request still has room for are in memory (R126). -/
theorem PacketWaits.filled {w : State} {n : Nat} (hn : n ≤ pkt.length)
    (hin : ∀ k (h : k < pkt.length), k < n →
      Memory.read w.mem ((s.pipe i).slotRx.buf + BitVec.ofNat 32 k).toNat = pkt[k])
    (hout : ∀ a, ¬ inRange (s.pipe i).slotRx.buf n a → Memory.read w.mem a = Memory.read v.mem a) :
    Filled (s.pipe i).slotRx.buf (pkt.take n) s.mem w.mem := by
  have hlen : (pkt.take n).length = n := List.length_take_of_le hn
  constructor
  · intro k hk
    rw [List.getElem_take]
    exact hin k (by omega) (by omega)
  · intro x hx
    rw [hout x (by rwa [hlen] at hx), hw.mem]

/-- A full packet that does not reach the length asked for: the read goes on (R126). -/
theorem PacketWaits.taken (h : Reading i s) (hr : PacketRead i pkt v u) (hfull : pkt.length = (s.pipe i).mps)
    (hlt : pkt.length < (s.pipe i).slotRx.remaining.toNat) : PacketTaken i pkt s u := by
  obtain ⟨w, -, hpipe, -, hin, hout, hrest, hend⟩ := hr
  simp only [hw.slotRx, hw.mps, Nat.min_eq_right hlt.le, lt_irrefl, hlt.ne', ← hfull, if_false] at hpipe hin hout hend
  rw [hend]
  have hcfg : w.cfg = s.cfg := (congrArg (·.cfg) hrest).trans hw.cfg
  have hport : w.port .c = v.port .c := congrArg (·.port .c) hrest
  have hroute : w.route i = s.route i := route_congr hcfg
    (by rw [hpipe]; exact hw.pipe.field Pipe.dir) (by rw [hpipe]; exact hw.pipe.field Pipe.curDir)
  refine ⟨hcfg, ⟨?_, hroute.trans h.route, ?_, ?_, ?_, ?_⟩, ?_, ?_, ?_, (congrArg (·.cbLog) hrest).trans hw.cbLog,
    (congrArg (·.txLog) hrest).trans hw.txLog⟩
  · rw [hpipe]; exact (hw.pipe.field Pipe.configured).trans h.configured
  · rw [hpipe]; exact h.armed
  · rw [hpipe]; exact (hw.pipe.field Pipe.pid).trans h.pid
  · rw [hpipe]
  · rw [hport, hw.owner, h.owner]
  · rw [hpipe]; exact hfull
  · rw [hpipe]; rfl
  · simpa using hw.filled le_rfl hin hout

/-- A packet that is short, or reaches the length asked for, ends the read (R126). -/
theorem PacketWaits.ended (hr : PacketRead i pkt v u)
    (hlast : pkt.length < (s.pipe i).mps ∨ (s.pipe i).slotRx.remaining.toNat ≤ pkt.length) : ReadEnded i pkt s u := by
  obtain ⟨w, -, hpipe, -, hin, hout, hrest, hend⟩ := hr
  simp only [hw.slotRx, hw.mps] at hpipe hin hout hend
  generalize hL : (s.pipe i).slotRx.remaining.toNat = L at *
  have hdone : Completed i .rx
      (if L < pkt.length then .overrun else if L = pkt.length then .exact else .shortPacket) w u := by
    by_cases hover : L < pkt.length
    · rw [if_pos (by omega)] at hend
      rwa [if_pos hover]
    · rw [if_neg (by omega)] at hend
      rw [if_neg hover]
      by_cases hexact : L = pkt.length
      · rw [if_pos (by omega)] at hend
        rwa [if_pos hexact]
      · rw [if_neg (by omega), if_pos (by omega)] at hend
        rwa [if_neg hexact]
  have hcb : w.cbLog = s.cbLog := (congrArg (·.cbLog) hrest).trans hw.cbLog
  refine ⟨?_, ?_, ?_, ?_⟩
  · rw [hdone.mem, hL, List.take_eq_take_min]
    exact hw.filled (Nat.min_le_right _ _) hin hout
  · have hrem : (w.pipe i).slotRx.remaining.toNat = L - min L pkt.length := by
      rw [hpipe, ← hL]
      exact Slot.advance_remaining _ _
    rw [hdone.callbacks, hcb, hL]
    simp only [Pipe.slot, hrem]
    rw [hpipe]
  · rw [hdone.record]
    rfl
  · exact hdone.logs.1.trans ((congrArg (·.txLog) hrest).trans hw.txLog)

end Waiting

/-! ### The whole read -/

/-- What is read after a packet follows its bytes (R126). -/
theorem PacketTaken.readEnded {pkt bs : List Byte} (h : PacketTaken i pkt s u)
    (hlt : pkt.length < (s.pipe i).slotRx.remaining.toNat) (hu : ReadEnded i bs u t) : ReadEnded i (pkt ++ bs) s t := by
  obtain ⟨-, -, -, hslot, hfill, hcb, htx⟩ := h
  obtain ⟨hfill', hcb', hslot', htx'⟩ := hu
  have hrem : (u.pipe i).slotRx.remaining.toNat = (s.pipe i).slotRx.remaining.toNat - pkt.length := by
    rw [hslot, Slot.advance_remaining]
  have hbuf : (u.pipe i).slotRx.buf = (s.pipe i).slotRx.buf + BitVec.ofNat 32 pkt.length := by rw [hslot]; rfl
  have hmax := (s.pipe i).slotRx.remaining.isLt
  rw [hrem, hbuf] at hfill'
  rw [hrem, hslot] at hcb'
  refine ⟨?_, ?_, hslot', htx'.trans htx⟩
  · rw [List.take_append, List.take_of_length_le hlt.le]
    exact hfill.append hfill' (by rw [List.length_take]; omega)
  · rw [hcb', hcb, List.length_append]
    generalize (s.pipe i).slotRx.remaining.toNat = L at *
    have hover : L - pkt.length < bs.length ↔ L < pkt.length + bs.length := by omega
    have hexact : L - pkt.length = bs.length ↔ L = pkt.length + bs.length := by omega
    have hleft : L - pkt.length - min (L - pkt.length) bs.length = L - min L (pkt.length + bs.length) := by omega
    simp only [hover, hexact, hleft, Slot.advance]

theorem receive_of_next {pkt : List Byte} {rest : List (List Byte)} (ht : exec (.hwRxPacket idx pkt) s = .next t)
    (hu : exec (.hBrdy p) t = .next u) : receive idx p (pkt :: rest) s = receive idx p rest u := by
  simp only [receive, ht, hu]

/-- One packet of a read, received and handled. -/
theorem Reading.receive_cons (h : Reading i s) (hi : s.pipeOf? idx.toNat = some i) (hp : s.pipeOf? p.toNat = some i)
    {pkt : List Byte} (hl : pkt.length ≤ (s.pipe i).mps) (hm : (s.pipe i).mps < 2 ^ 32) (rest : List (List Byte)) :
    receive idx p (pkt :: rest) s = receive idx p rest (handleBrdy i (packetArrived i pkt s)) :=
  receive_of_next (exec_hwRxPacket hi h hl hm) (exec_hBrdy (by rwa [pipeOf?_congr (packetArrived_cfg pkt)]))

theorem Reading.receive_all {full : List (List Byte)} {last : List Byte} (h : Reading i s)
    (hi : s.pipeOf? idx.toNat = some i) (hp : s.pipeOf? p.toNat = some i) (hm : (s.pipe i).mps < 2 ^ 32)
    (hfull : ∀ b ∈ full, b.length = (s.pipe i).mps) (hl : last.length ≤ (s.pipe i).mps)
    (hroom : full = [] ∨ full.flatten.length < (s.pipe i).slotRx.remaining.toNat)
    (hlast : last.length < (s.pipe i).mps ∨
      (s.pipe i).slotRx.remaining.toNat ≤ full.flatten.length + last.length) :
    ∃ t, receive idx p (full ++ [last]) s = .next t ∧ ReadEnded i (full.flatten ++ last) s t := by
  induction full generalizing s with
  | nil =>
    refine ⟨_, h.receive_cons hi hp hl hm [], ?_⟩
    exact (packetWaits last).ended (h.handleBrdy_packet last) (by simpa using hlast)
  | cons pkt rest ih =>
    have hpkt : pkt.length = (s.pipe i).mps := hfull pkt (List.mem_cons_self ..)
    have hsum : (pkt :: rest).flatten.length = pkt.length + rest.flatten.length := by simp
    rw [hsum] at hroom hlast
    have hlt : pkt.length + rest.flatten.length < (s.pipe i).slotRx.remaining.toNat :=
      hroom.resolve_left (List.cons_ne_nil _ _)
    have htaken : PacketTaken i pkt s (handleBrdy i (packetArrived i pkt s)) :=
      (packetWaits pkt).taken h (h.handleBrdy_packet pkt) hpkt (by omega)
    have hrem : ((handleBrdy i (packetArrived i pkt s)).pipe i).slotRx.remaining.toNat =
        (s.pipe i).slotRx.remaining.toNat - pkt.length := by
      rw [htaken.slot, Slot.advance_remaining]
    obtain ⟨t, hrun, hend⟩ := ih htaken.reading ((pipeOf?_congr htaken.cfg _).trans hi)
      ((pipeOf?_congr htaken.cfg _).trans hp) (by rwa [htaken.mps])
      (fun b hb => by rw [htaken.mps]; exact hfull b (List.mem_cons_of_mem _ hb)) (by rwa [htaken.mps])
      (.inr (by omega)) (by rw [htaken.mps]; omega)
    refine ⟨t, (h.receive_cons hi hp hpkt.le hm _).trans hrun, ?_⟩
    rw [List.flatten_cons, List.append_assoc]
    exact htaken.readEnded (by omega) hend

/-- Settles O37, by induction on the packets before the last. -/
theorem wholeRead : Obligations.WholeRead := by
  intro idx p s i full last hi hp hr hc ha hpid hn ho hm hfull hl x L N hroom hlast
  have hp' : s.pipeOf? p.toNat = some i := by rw [hp, (pipeOf?_some hi).1, hi]
  obtain ⟨t, hrun, hfill, hcb, hslot, htx⟩ := Reading.receive_all ⟨hc, hr, ha, hpid, hn, ho⟩ hi hp' hm hfull hl hroom
    hlast
  have hlen : (full.flatten ++ last).length = N := List.length_append
  have htake : ((full.flatten ++ last).take L).length = min L N := by rw [List.length_take, hlen]
  rw [hlen] at hcb
  refine ⟨t, hrun, fun k hk hkL => ?_, fun a hout => ?_, hcb, hslot, htx⟩
  · rw [hfill.inside k (by rw [htake]; omega), List.getElem_take]
  · exact hfill.outside a (by rwa [htake])

end Sys2Proof.Machine
end

section
/-! SUPPORT. `DMA_START` (R151 to R153): the tests of a request in their order, and what becomes of one that passes
them. -/

namespace Sys2Proof.Machine

variable {s : State} {i : PipeId} {p : DPort} {idx : BitVec 8} {f : FPort} {b l c : Word}

/-- R152, as `DMA_START` tests it. -/
theorem delegates_iff : s.delegates i l.toNat p = true ↔ s.cfg.strategy = .cpuOnly ∨ l.toNat < s.blockSize p ∨
    (s.pipe i).ttype ≠ .bulk ∨ s.blockSize p % (s.pipe i).mps ≠ 0 := by
  simp [State.delegates, or_assoc]

theorem delegates_eq_false (hs : s.cfg.strategy ≠ .cpuOnly) (hl : s.blockSize p ≤ l.toNat)
    (ht : (s.pipe i).ttype = .bulk) (hm : s.blockSize p % (s.pipe i).mps = 0) : s.delegates i l.toNat p = false := by
  rw [Bool.eq_false_iff, ne_eq, delegates_iff]
  rintro (h | h | h | h)
  exacts [hs h, Nat.not_lt.2 hl h, h ht, h hm]

theorem exec_dmaStart_rejected (h : s.cfg.numPipes ≤ idx.toNat ∨ f = .c ∨ idx = 0) :
    exec (.dmaStart idx b l f c) s = .next (s.returns .invalidArg) := by
  cases hj : s.pipeOf? idx.toNat with
  | none => simp [exec, execDmaStart, hj]
  | some j =>
    obtain h | rfl | rfl := h
    · simp [pipeOf?_none h] at hj
    · simp [exec, execDmaStart, hj, FPort.dma?]
    · obtain rfl : j = 0 := Fin.ext (pipeOf?_some hj).1
      have hj0 : s.pipeOf? 0 = some 0 := hj
      cases hf : f.dma? <;> simp [exec, execDmaStart, hj0, hf]

theorem dmaStart_unconfigured (h : (s.pipe i).configured = false) : dmaStart i b l p c s = s.returns .invalidState := by
  rw [dmaStart, if_pos h]

theorem dmaStart_wraps (hc : (s.pipe i).configured = true) (hw : (s.pipe i).wedged = false)
    (h : 2 ^ 32 < b.toNat + l.toNat) : dmaStart i b l p c s = s.returns .invalidArg := by
  rw [dmaStart, if_neg (by simp [hc]), if_neg (by simp [hw]), if_pos (bufferWraps_iff.2 h)]

/-- The tests of R151 after those of the pipe and the buffer. -/
theorem State.Admits.dmaStart_eq (h : s.Admits i (s.xdir i) b l) : dmaStart i b l p c s =
    if ((s.pipe i).slot (s.xdir i)).state ≠ .idle then s.returns .queueOverrun
    else if s.delegates i l.toNat p then startCommon i (s.xdir i) b l c s
    else if (s.chan p).bound then s.returns .busy
    else if (acquirePort i p.fport s).1 then (armDma i (s.xdir i) b l c p (acquirePort i p.fport s).2).returns .ok
    else (acquirePort i p.fport s).2.returns .portWedgedNow := by
  obtain ⟨hc, hw, -, hf⟩ := h
  rw [dmaStart, if_neg (by simp [hc]), if_neg (by simp [hw]), if_neg (by rw [bufferWraps_iff]; exact Nat.not_lt.2 hf)]

/-! ### The outcomes of an admitted request -/

theorem State.Admits.dmaStart_overrun (h : s.Admits i (s.xdir i) b l)
    (hb : ((s.pipe i).slot (s.xdir i)).state ≠ .idle) : dmaStart i b l p c s = s.returns .queueOverrun := by
  rw [h.dmaStart_eq, if_pos hb]

section Idle

variable (h : s.Admits i (s.xdir i) b l) (hidle : ((s.pipe i).slot (s.xdir i)).state = .idle)

include h hidle

theorem State.Admits.dmaStart_delegated (hd : s.delegates i l.toNat p = true) :
    dmaStart i b l p c s = startCommon i (s.xdir i) b l c s := by
  rw [h.dmaStart_eq, if_neg (not_not.2 hidle), if_pos hd]

theorem State.Admits.dmaStart_busy (hd : s.delegates i l.toNat p = false) (hb : (s.chan p).bound = true) :
    dmaStart i b l p c s = s.returns .busy := by
  rw [h.dmaStart_eq, if_neg (not_not.2 hidle), if_neg (by simp [hd]), if_pos hb]

theorem State.Admits.dmaStart_accepted (hd : s.delegates i l.toNat p = false) (hb : (s.chan p).bound = false)
    (hcan : s.CanAcquire i p.fport) : dmaStart i b l p c s =
      (armDma i (s.xdir i) b l c p (acquirePort i p.fport s).2).returns .ok := by
  rw [h.dmaStart_eq, if_neg (not_not.2 hidle), if_neg (by simp [hd]), if_neg (by simp [hb]),
    if_pos ((acquirePort_ok_iff p.fport).2 hcan)]

theorem State.Admits.dmaStart_refused (hd : s.delegates i l.toNat p = false) (hb : (s.chan p).bound = false)
    (hcan : ¬ s.CanAcquire i p.fport) : dmaStart i b l p c s = (acquirePort i p.fport s).2.returns .portWedgedNow := by
  rw [h.dmaStart_eq, if_neg (not_not.2 hidle), if_neg (by simp [hd]), if_neg (by simp [hb]),
    if_neg (by simp [(acquirePort_failed p.fport hcan).1])]

end Idle

/-! ### The obligations about `DMA_START` -/

/-- Settles O38: the request passes every test of R151, the port is acquired and the slot and the channel armed. -/
theorem dmaStartAccepted : Obligations.DmaStartAccepted := by
  intro idx b l c p s i hwf hi h0 hc hw hf hidle hs hl ht hm hb hcan
  have hadm : s.Admits i (s.xdir i) b l := ⟨hc, hw, fun _ => rfl, hf⟩
  have hacq : Acquired i p.fport s (acquirePort i p.fport s).2 := acquirePort_acquired p.fport hcan
  exact ⟨_, _, hacq, armDma_accepted _ b l c p (by rwa [hacq.cfg]),
    by rw [exec_dmaStart hi h0, hadm.dmaStart_accepted hidle (delegates_eq_false hs hl ht hm) hb hcan]⟩

/-- Settles O39: each test of R151 in its order, the last being the port. -/
theorem dmaStartOtherwise : Obligations.DmaStartOtherwise := by
  refine fun idx b l c f s => ⟨exec_dmaStart_rejected, ?_⟩
  rintro p i rfl hi h0
  rw [exec_dmaStart hi h0]
  refine ⟨fun hc => ?_, fun hc hw => ?_, fun hc hw => ⟨fun hwrap => ?_, fun hf => ?_⟩⟩
  · rw [dmaStart_unconfigured hc]
  · rw [dmaStart_wedged hw, State.wedgedStatus, if_pos hc]
  · rw [dmaStart_wraps hc hw hwrap]
  have hadm : s.Admits i (s.xdir i) b l := ⟨hc, hw, fun _ => rfl, hf⟩
  refine ⟨fun hbusy => ?_, fun hidle => ⟨fun hd => ?_, fun hs hl ht hm => ?_⟩⟩
  · rw [hadm.dmaStart_overrun hbusy]
  · rw [exec_request hi, hadm.dmaStart_delegated hidle (delegates_iff.2 hd)]
  have hnot : s.delegates i l.toNat p = false := delegates_eq_false hs hl ht hm
  refine ⟨fun hb => ?_, fun hb hcan => ?_⟩
  · rw [hadm.dmaStart_busy hidle hnot hb]
  · exact ⟨_, (acquirePort_failed p.fport hcan).2, by rw [hadm.dmaStart_refused hidle hnot hb hcan]⟩

end Sys2Proof.Machine
end

section
/-! SUPPORT. `DMA_IRQ` (R155): which case of the rule a pending interrupt is, and what it does. -/

namespace Sys2Proof.Machine

variable {s t u v w : State} {i : PipeId} {p : DPort} {d : Dir} {f : FPort}

/-! ### Which case it is -/

theorem dma?_fport (p : DPort) : p.fport.dma? = some p := by cases p <;> rfl

theorem exec_dmaIrq (hs : s.cfg.strategy ≠ .cpuOnly) : exec (.dmaIrq p.fport) s =
    if (s.chan p).done = false then .refused .notEnabled else dmaIrq p s := by
  simp only [exec, execDmaIrq, dma?_fport, if_neg hs]

/-- The channel serves a request: the binding and the slot name each other (R155, R34). -/
def State.dmaLive (s : State) (p : DPort) : Prop :=
  (s.chan p).bound = true ∧ ((s.pipe (s.chan p).pipe).slot (s.chan p).dirn).state = .dmaArmed ∧
    ((s.pipe (s.chan p).pipe).slot (s.chan p).dirn).path = .dma p

/-- The pending interrupt is taken (R155). -/
def takeDmaDone (p : DPort) (s : State) : State := s.modChan p fun y => { y with done := false }

theorem dmaStale_takeDmaDone : (takeDmaDone p s).dmaStale p = false ↔ s.dmaLive p := by
  simp [State.dmaStale, State.dmaLive, takeDmaDone, and_assoc]

theorem Chan.full_iff {c : Chan} : c.full = true ↔ c.crb = 0 ∧ c.lastLen = c.blockSize := by simp [Chan.full]

theorem dmaIrq_stale (h : ¬ s.dmaLive p) : dmaIrq p s = .next (takeDmaDone p s) := by
  have hstale : (takeDmaDone p s).dmaStale p = true := by simpa [← dmaStale_takeDmaDone] using h
  exact if_pos hstale

theorem dmaIrq_incomplete (h : s.dmaLive p) (hd : (s.chan p).dirn = .tx) (hf : (s.chan p).full = false) :
    dmaIrq p s = .fault (.dmaIncompleteWrite p) := by
  have hlive : ¬ (takeDmaDone p s).dmaStale p = true := by simp [dmaStale_takeDmaDone.2 h]
  exact (if_neg hlive).trans (if_pos ⟨hd, hf⟩)

theorem dmaIrq_live (h : s.dmaLive p) (hd : ¬ ((s.chan p).dirn = .tx ∧ (s.chan p).full = false)) :
    dmaIrq p s = .next (dmaComplete p (s.chan p) (takeDmaDone p s)) := by
  have hlive : ¬ (takeDmaDone p s).dmaStale p = true := by simp [dmaStale_takeDmaDone.2 h]
  exact (if_neg hlive).trans (if_neg hd)

/-! ### The accounting -/

/-- What `DMA_IRQ` has done when the moved bytes are accounted (R155). -/
def dmaAccounted (p : DPort) (s : State) : State := dmaAccount p (takeDmaDone p s)

theorem dmaAccounted_accounted : Accounted p s (dmaAccounted p s) := dmaAccount_accounted p _ rfl

theorem Accounted.cfg (h : Accounted p s w) : w.cfg = s.cfg := congrArg (·.cfg) h.rest

theorem Accounted.portC (h : Accounted p s w) : w.port .c = s.port .c := h.ports .c (by cases p <;> simp [DPort.fport])

theorem Accounted.stage (h : Accounted p s w) : (w.port p.fport).stage = (s.port p.fport).stage := by rw [h.dreq]

theorem Accounted.remaining (h : Accounted p s w) :
    ((w.pipe (s.chan p).pipe).slot (s.chan p).dirn).remaining.toNat =
      ((s.pipe (s.chan p).pipe).slot (s.chan p).dirn).remaining.toNat - (s.chan p).bytesMoved := by
  rw [h.slot]
  exact Slot.advance_remaining _ _

/-! ### The three cases of a binding that is not stale -/

theorem dmaComplete_short {c : Chan} (h : c.full = false) :
    dmaComplete p c t = complete c.pipe .rx .shortPacket (dmaAccount p t) := if_pos h

theorem dmaComplete_remainder {c : Chan} (h : c.full = true)
    (hr : 0 < (((dmaAccount p t).pipe c.pipe).slot c.dirn).remaining.toNat) :
    dmaComplete p c t = dmaRemainder c.pipe c.dirn (dmaAccount p t) :=
  (if_neg (by simp [h])).trans (if_pos hr)

theorem dmaComplete_end {c : Chan} (h : c.full = true)
    (hr : (((dmaAccount p t).pipe c.pipe).slot c.dirn).remaining.toNat = 0) :
    dmaComplete p c t = dmaEnd p c.pipe c.dirn (dmaAccount p t) :=
  (if_neg (by simp [h])).trans (if_neg (by simp [hr]))

section Live

variable (hs : s.cfg.strategy ≠ .cpuOnly) (hdone : (s.chan p).done = true) (hlive : s.dmaLive p)

include hs hdone hlive

theorem exec_dmaIrq_short (hd : (s.chan p).dirn = .rx) (hf : (s.chan p).full = false) :
    exec (.dmaIrq p.fport) s = .next (complete (s.chan p).pipe .rx .shortPacket (dmaAccounted p s)) := by
  rw [exec_dmaIrq hs, if_neg (by simp [hdone]), dmaIrq_live hlive (by simp [hd]), dmaComplete_short hf, dmaAccounted]

theorem exec_dmaIrq_remainder (hf : (s.chan p).full = true)
    (hr : (s.chan p).bytesMoved < ((s.pipe (s.chan p).pipe).slot (s.chan p).dirn).remaining.toNat) :
    exec (.dmaIrq p.fport) s = .next (dmaRemainder (s.chan p).pipe (s.chan p).dirn (dmaAccounted p s)) := by
  have hrem := (dmaAccounted_accounted (s := s) (p := p)).remaining
  rw [exec_dmaIrq hs, if_neg (by simp [hdone]), dmaIrq_live hlive (by simp [hf]),
    dmaComplete_remainder hf (by rw [← dmaAccounted]; omega), dmaAccounted]

theorem exec_dmaIrq_end (hf : (s.chan p).full = true)
    (hr : ((s.pipe (s.chan p).pipe).slot (s.chan p).dirn).remaining.toNat ≤ (s.chan p).bytesMoved) :
    exec (.dmaIrq p.fport) s = .next (dmaEnd p (s.chan p).pipe (s.chan p).dirn (dmaAccounted p s)) := by
  have hrem := (dmaAccounted_accounted (s := s) (p := p)).remaining
  rw [exec_dmaIrq hs, if_neg (by simp [hdone]), dmaIrq_live hlive (by simp [hf]),
    dmaComplete_end hf (by rw [← dmaAccounted]; omega), dmaAccounted]

end Live

/-! ### Case (a): the remainder on the CPU path -/

/-- The slot becomes a one-shot CPU-path transfer, once `PORT_C` is held (R155, R156). -/
def armOneShot (i : PipeId) (d : Dir) (v : State) : State :=
  (v.modPipe i fun q => q.setSlot d { q.slot d with state := .armed, path := .cpu, oneShot := true }).setEnb (.brdy i) true

theorem armOneShot_oneShot : OneShot i d v (armOneShot i d v) := oneShot_of_arm d

theorem OneShot.portC_owner (h : OneShot i d v u) (ha : Acquired i .c w v) : (u.port .c).owner = some i := by
  rw [h.data.ports]
  exact ha.owner

theorem OneShot.portC_stage (h : OneShot i d v u) (ha : Acquired i .c w v) (hs : (w.port .c).stage = []) :
    (u.port .c).stage = [] := by
  rw [h.data.ports]
  exact ha.stage hs

theorem dmaRemainder_acquired (h : w.CanAcquire i .c) :
    dmaRemainder i d w = pushFirst i d (armOneShot i d (acquirePort i .c w).2) :=
  if_pos ((acquirePort_ok_iff .c).2 h)

/-- The remainder waits for the next buffer-ready event. -/
theorem dmaRemainder_waits (h : w.CanAcquire i .c) (hno : d = .rx ∨ w.cfg.pushFirstOnWrite = false) :
    ∃ v u, Acquired i .c w v ∧ OneShot i d v u ∧ dmaRemainder i d w = u := by
  have hacq : Acquired i .c w (acquirePort i .c w).2 := acquirePort_acquired .c h
  have hone : OneShot i d (acquirePort i .c w).2 (armOneShot i d (acquirePort i .c w).2) := armOneShot_oneShot
  refine ⟨_, _, hacq, hone, ?_⟩
  rw [dmaRemainder_acquired h, pushFirst_no (by rwa [hone.frame.cfg, hacq.cfg])]

/-- With `PUSH_FIRST_ON_WRITE` the first chunk of the remainder goes out at once. -/
theorem dmaRemainder_pushed (h : w.CanAcquire i .c) (hpush : w.cfg.pushFirstOnWrite = true)
    (hs : (w.port .c).stage = []) :
    ∃ v y u, Acquired i .c w v ∧ OneShot i .tx v y ∧ ChunkWritten i y u ∧ dmaRemainder i .tx w = u := by
  have hacq : Acquired i .c w (acquirePort i .c w).2 := acquirePort_acquired .c h
  have hone : OneShot i .tx (acquirePort i .c w).2 (armOneShot i .tx (acquirePort i .c w).2) := armOneShot_oneShot
  refine ⟨_, _, _, hacq, hone, writeChunk_owned (hone.portC_owner hacq) (hone.portC_stage hacq hs), ?_⟩
  rw [dmaRemainder_acquired h, pushFirst_write (by rwa [hone.frame.cfg, hacq.cfg])]

theorem dmaRemainder_refused (h : ¬ w.CanAcquire i .c) :
    dmaRemainder i d w = terminateAll i .portWedged (acquirePort i .c w).2 :=
  if_neg (by simp [(acquirePort_failed .c h).1])

/-! ### Case (b): nothing remains -/

theorem commit_nothing (b : Bool) (h : (v.port f).stage = []) :
    commit f i b v = { v with txLog := v.txLog ++ [⟨i, [], b⟩] } := by
  have hport : v.modPort f (fun q => { q with stage := [] }) = v := by
    cases f <;> simp only [State.port] at h <;> simp only [State.modPort, ← h]
  rw [commit, h]
  conv_rhs => rw [← hport]
  cases f <;> rfl

/-- A write ends with a zero-length packet through the port it came by. -/
theorem dmaEnd_write (h : w.CanAcquire i p.fport) (hs : (w.port p.fport).stage = []) :
    ∃ v u, Acquired i p.fport w v ∧ Completed i .tx .exact { v with txLog := v.txLog ++ [⟨i, [], true⟩] } u ∧
      dmaEnd p i .tx w = u := by
  have hacq : Acquired i p.fport w (acquirePort i p.fport w).2 := acquirePort_acquired p.fport h
  refine ⟨_, _, hacq, complete_completed _ _, ?_⟩
  rw [← commit_nothing true (hacq.stage hs)]
  exact if_pos ((acquirePort_ok_iff p.fport).2 h)

theorem dmaEnd_refused (h : ¬ w.CanAcquire i p.fport) :
    dmaEnd p i .tx w = terminateAll i .portWedged (acquirePort i p.fport w).2 :=
  if_neg (by simp [(acquirePort_failed p.fport h).1])

/-! ### The obligation about `DMA_IRQ` -/

/-- Settles O41: the accounting, then the case of R155 that what was moved and what remains select. -/
theorem dmaCompleteInterrupt : Obligations.DmaComplete := by
  intro p s hs c x live whole
  have hfull : c.full = true ↔ whole := Chan.full_iff
  have hpart : ¬ whole → c.full = false := fun h => by rwa [Bool.eq_false_iff, ne_eq, hfull]
  have hacc : Accounted p s (dmaAccounted p s) := dmaAccounted_accounted
  refine ⟨fun h => ?_, fun h hl => ?_, fun h hl hd hw => ?_, fun h hl hd hw => ?_, fun h hl hw hr => ?_,
    fun h hl hw hr => ?_⟩
  · rw [exec_dmaIrq hs, if_pos h]
  · rw [exec_dmaIrq hs, if_neg (by simp [c, h]), dmaIrq_stale hl, takeDmaDone]
  · rw [exec_dmaIrq hs, if_neg (by simp [c, h]), dmaIrq_incomplete hl hd (hpart hw)]
  · exact ⟨_, _, hacc, complete_completed _ _, exec_dmaIrq_short hs h hl hd (hpart hw)⟩
  · rw [exec_dmaIrq_remainder hs h hl (hfull.2 hw) hr]
    refine ⟨_, hacc, fun hcan hno => ?_, fun hcan hd hpush hstage => ?_, fun hcan => ?_⟩
    · obtain ⟨v, u, hacq, hone, he⟩ := dmaRemainder_waits hcan (by rwa [hacc.cfg])
      exact ⟨v, u, hacq, hone, by rw [he]⟩
    · obtain ⟨v, y, u, hacq, hone, hchunk, he⟩ := dmaRemainder_pushed hcan (by rwa [hacc.cfg]) (by rwa [hacc.portC])
      exact ⟨v, y, u, hacq, by rwa [hd], hchunk, by rw [hd, he]⟩
    · exact ⟨_, _, (acquirePort_failed .c hcan).2, terminateAll_terminated .portWedged (by decide),
        by rw [dmaRemainder_refused hcan]⟩
  · rw [exec_dmaIrq_end hs h hl (hfull.2 hw) hr]
    refine ⟨_, hacc, fun hd => ?_, fun hd hcan hstage => ?_, fun hd hcan => ?_⟩
    · exact ⟨_, complete_completed _ _, by rw [hd]; rfl⟩
    · obtain ⟨v, u, hacq, hend, he⟩ := dmaEnd_write hcan (by rwa [hacc.stage])
      exact ⟨v, u, hacq, hend, by rw [hd, he]⟩
    · exact ⟨_, _, (acquirePort_failed p.fport hcan).2, terminateAll_terminated .portWedged (by decide),
        by rw [hd, dmaEnd_refused hcan]⟩

end Sys2Proof.Machine
end

section
/-! SUPPORT. A whole write on the DMA path (R158): the engine's blocks, `DMA_IRQ`, and the remainder on the CPU path. -/

namespace Sys2Proof.Machine

variable {s t u v w : State} {i : PipeId} {p : DPort} {f : FPort} {e : BitVec 5}

/-! ### The packets of a run of blocks -/

/-- Whole packets, and then those of what follows (R242). -/
theorem blockPackets_append {m q n : Nat} {a b : List Byte} (hm : 1 ≤ m) (ha : a.length = q * m) :
    blockPackets i m (a ++ b) (q * m + n) = blockPackets i m a (q * m) ++ blockPackets i m b n := by
  have hdiv : (q * m + n) / m = q + n / m := by rw [Nat.add_comm, Nat.add_mul_div_right _ _ hm, Nat.add_comm]
  have hfst : ∀ j < q, ((a ++ b).drop (j * m)).take m = (a.drop (j * m)).take m := by
    intro j hj
    have hle : (j + 1) * m ≤ q * m := Nat.mul_le_mul_right m hj
    rw [Nat.succ_mul] at hle
    rw [List.drop_append_of_le_length (by omega), List.take_append_of_le_length (by rw [List.length_drop]; omega)]
  have hsnd : ∀ j, (a ++ b).drop ((q + j) * m) = b.drop (j * m) := by
    intro j
    rw [Nat.add_mul, ← ha, List.drop_length_add_append]
  rw [blockPackets, hdiv, List.range_add, List.map_append, List.map_map]
  congr 1
  · rw [blockPackets, Nat.mul_div_cancel _ hm]
    exact List.map_congr_left fun j hj => by rw [hfst j (List.mem_range.1 hj)]
  · exact List.map_congr_left fun j _ => by simp only [Function.comp_apply, hsnd]

theorem writePackets_eq {m : Nat} {b : List Byte} :
    writePackets i m b = blockPackets i m b b.length ++ [⟨i, b.drop (b.length / m * m), true⟩] := rfl

/-- The packets of a write are those of the blocks at its front and those of the rest (R158). -/
theorem writePackets_blocks {m q : Nat} {a b : List Byte} (hm : 1 ≤ m) (ha : a.length = q * m) :
    writePackets i m (a ++ b) = blockPackets i m a (q * m) ++ writePackets i m b := by
  have hdiv : (q * m + b.length) / m * m = q * m + b.length / m * m := by
    rw [Nat.add_comm, Nat.add_mul_div_right _ _ hm, Nat.add_mul, Nat.add_comm]
  rw [writePackets_eq, writePackets_eq, List.length_append, ha, blockPackets_append hm ha, hdiv, ← ha,
    List.drop_length_add_append, List.append_assoc]

/-! ### The engine's blocks -/

theorem exec_dmaBlock (hs : s.cfg.strategy ≠ .cpuOnly) (h : s.canMoveBlock p = true) :
    exec (.dmaBlock p.fport) s = .next (moveBlock p s) := by
  simp only [exec, execDmaBlock, dma?_fport, if_neg hs, if_pos h]

theorem canMoveBlock_iff : s.canMoveBlock p = true ↔ (s.chan p).bound = true ∧ (s.chan p).armed = true ∧
    (s.chan p).done = false ∧ 0 < (s.chan p).crb ∧ (s.port p.fport).dreq = true ∧
    (s.port p.fport).owner = some (s.chan p).pipe ∧ (s.pipe (s.chan p).pipe).pid = .buf := by
  simp [State.canMoveBlock, and_assoc]

/-- The engine is at work on a write in blocks of whole packets (R242, R152). -/
structure BlockWriting (p : DPort) (s : State) : Prop where
  strategy : s.cfg.strategy ≠ .cpuOnly
  dirn : (s.chan p).dirn = .tx
  ready : s.canMoveBlock p = true
  packets : 1 ≤ (s.pipe (s.chan p).pipe).mps
  whole : (s.pipe (s.chan p).pipe).mps ∣ (s.chan p).blockSize

theorem BlockWriting.crb_pos (h : BlockWriting p s) : 0 < (s.chan p).crb := by
  obtain ⟨-, -, -, hpos, -⟩ := canMoveBlock_iff.1 h.ready
  exact hpos

/-- The descriptor when the last block of a write has been moved (R242). -/
def Chan.finishBlocks (c : Chan) : Chan :=
  { c with
    addr := c.addr + BitVec.ofNat 32 (c.crb * c.blockSize)
    crb := 0
    lastLen := c.blockSize
    armed := false
    done := true }

@[simp] theorem Chan.finishBlocks_bound (c : Chan) : c.finishBlocks.bound = c.bound := rfl
@[simp] theorem Chan.finishBlocks_pipe (c : Chan) : c.finishBlocks.pipe = c.pipe := rfl
@[simp] theorem Chan.finishBlocks_dirn (c : Chan) : c.finishBlocks.dirn = c.dirn := rfl
@[simp] theorem Chan.finishBlocks_done (c : Chan) : c.finishBlocks.done = true := rfl
@[simp] theorem Chan.finishBlocks_full (c : Chan) : c.finishBlocks.full = true := by simp [Chan.full, finishBlocks]

/-- The packets of the next `n` bytes of the write on port `p`. -/
def State.dmaPackets (s : State) (p : DPort) (n : Nat) : List TxEntry :=
  blockPackets (s.chan p).pipe (s.pipe (s.chan p).pipe).mps (memRead s.mem (s.chan p).addr n) n

/-- The state when every block of the write on port `p` has been moved. -/
def blocksSent (p : DPort) (s : State) : State :=
  (s.addTx (s.dmaPackets p ((s.chan p).crb * (s.chan p).blockSize))).modChan p Chan.finishBlocks

theorem moveBlock_write (h : (s.chan p).dirn = .tx) : moveBlock p s =
    (s.addTx (s.dmaPackets p (s.chan p).blockSize)).modChan p (Chan.moveBlock (s.chan p).blockSize) := by
  simp [moveBlock, h, State.dmaPackets]

theorem Chan.moveBlock_last {c : Chan} (h : c.crb = 1) : c.moveBlock c.blockSize = c.finishBlocks := by
  simp [Chan.moveBlock, Chan.finishBlocks, h]

theorem Chan.moveBlock_more {c : Chan} (h : c.crb ≠ 1) (hc : 0 < c.crb) : c.moveBlock c.blockSize =
    { c with addr := c.addr + BitVec.ofNat 32 c.blockSize, crb := c.crb - 1, lastLen := c.blockSize } := by
  simp [Chan.moveBlock, show c.crb - 1 ≠ 0 by omega]

theorem addTx_modChan_twice (l k : List TxEntry) (g h : Chan → Chan) :
    (((s.addTx l).modChan p g).addTx k).modChan p h = (s.addTx (l ++ k)).modChan p (h ∘ g) := by
  cases p <;> simp [State.addTx, State.modChan]

theorem modChan_congr {g h : Chan → Chan} (hgh : g (s.chan p) = h (s.chan p)) : s.modChan p g = s.modChan p h := by
  cases p <;> simpa [State.modChan, State.chan] using hgh

theorem BlockWriting.moveBlock_last (h : BlockWriting p s) (hc : (s.chan p).crb = 1) :
    moveBlock p s = blocksSent p s := by
  rw [moveBlock_write h.dirn, blocksSent, hc, Nat.one_mul]
  exact modChan_congr (by simpa using Chan.moveBlock_last hc)

section More

variable (h : BlockWriting p s) (hc : (s.chan p).crb ≠ 1)

include h hc

theorem BlockWriting.chan_moveBlock : (moveBlock p s).chan p =
    { s.chan p with
      addr := (s.chan p).addr + BitVec.ofNat 32 (s.chan p).blockSize
      crb := (s.chan p).crb - 1
      lastLen := (s.chan p).blockSize } := by
  rw [moveBlock_write h.dirn]
  simpa using Chan.moveBlock_more hc h.crb_pos

theorem BlockWriting.ready_moveBlock : (moveBlock p s).canMoveBlock p = true := by
  obtain ⟨hb, ha, hn, hpos, hdreq, ho, hpid⟩ := canMoveBlock_iff.1 h.ready
  rw [canMoveBlock_iff, h.chan_moveBlock hc, moveBlock_write h.dirn]
  simp only [modChan_pipe, modChan_port, addTx_pipe, addTx_port]
  exact ⟨hb, ha, hn, by omega, hdreq, ho, hpid⟩

/-- With a block left, the engine goes on (R242). -/
theorem BlockWriting.moveBlock_writing : BlockWriting p (moveBlock p s) where
  strategy := by rw [moveBlock_write h.dirn]; simpa using h.strategy
  dirn := by rw [h.chan_moveBlock hc]; exact h.dirn
  ready := h.ready_moveBlock hc
  packets := by rw [h.chan_moveBlock hc, moveBlock_write h.dirn]; simpa using h.packets
  whole := by rw [h.chan_moveBlock hc, moveBlock_write h.dirn]; simpa using h.whole

/-- The packets of the first block and of the blocks after it are those of the whole run (R242). -/
theorem BlockWriting.dmaPackets_moveBlock : s.dmaPackets p (s.chan p).blockSize ++
    (moveBlock p s).dmaPackets p (((s.chan p).crb - 1) * (s.chan p).blockSize) =
      s.dmaPackets p ((s.chan p).crb * (s.chan p).blockSize) := by
  obtain ⟨q, hq⟩ := h.whole
  have hsize : (s.chan p).crb * (s.chan p).blockSize =
      (s.chan p).blockSize + ((s.chan p).crb - 1) * (s.chan p).blockSize := by
    rw [Nat.add_comm, ← Nat.succ_mul, Nat.succ_eq_add_one, Nat.sub_add_cancel h.crb_pos]
  simp only [State.dmaPackets, h.chan_moveBlock hc, hsize, memRead_add]
  rw [moveBlock_write h.dirn, hq, Nat.mul_comm _ q, blockPackets_append h.packets (length_memRead ..)]
  simp

theorem BlockWriting.finish_moveBlock (l : List TxEntry) : ((moveBlock p s).addTx l).modChan p Chan.finishBlocks =
    (s.addTx (s.dmaPackets p (s.chan p).blockSize ++ l)).modChan p Chan.finishBlocks := by
  have hchan : Chan.finishBlocks ((s.chan p).moveBlock (s.chan p).blockSize) = (s.chan p).finishBlocks := by
    obtain ⟨k, hk⟩ := Nat.exists_eq_add_of_le h.crb_pos
    rw [Chan.moveBlock_more hc h.crb_pos]
    simp [Chan.finishBlocks, hk, Nat.add_mul, ← BitVec.ofNat_add_ofNat, BitVec.add_assoc]
  rw [moveBlock_write h.dirn, addTx_modChan_twice]
  exact modChan_congr hchan

theorem BlockWriting.moveBlock_blocksSent : blocksSent p (moveBlock p s) = blocksSent p s := by
  rw [blocksSent, h.chan_moveBlock hc, h.finish_moveBlock hc, h.dmaPackets_moveBlock hc, ← blocksSent]

end More

theorem BlockWriting.repeat_dmaBlock (h : BlockWriting p s) :
    repeatExec (.dmaBlock p.fport) (s.chan p).crb s = .next (blocksSent p s) := by
  induction hk : (s.chan p).crb generalizing s with
  | zero => exact absurd hk h.crb_pos.ne'
  | succ k ih =>
    rw [repeatExec_succ k (exec_dmaBlock h.strategy h.ready)]
    by_cases hc : (s.chan p).crb = 1
    · obtain rfl : k = 0 := by omega
      rw [← h.moveBlock_last hc, repeatExec]
    · rw [ih (h.moveBlock_writing hc) (by rw [h.chan_moveBlock hc]; exact congrArg (· - 1) hk),
        h.moveBlock_blocksSent hc]

/-! ### What is left of the write after `DMA_IRQ` -/

theorem Acquired.rest (h : Acquired i f s v) :
    { v with portC := s.portC, portD0 := s.portD0, portD1 := s.portD1, draws := s.draws } = s := by
  unfold Acquired at h
  split at h
  · rw [h]
  · exact h.rest

theorem Acquired.mem (h : Acquired i f s v) : v.mem = s.mem := congrArg (·.mem) h.rest
theorem Acquired.txLog (h : Acquired i f s v) : v.txLog = s.txLog := congrArg (·.txLog) h.rest
theorem Acquired.cbLog (h : Acquired i f s v) : v.cbLog = s.cbLog := congrArg (·.cbLog) h.rest

theorem Accounted.mem (h : Accounted p s w) : w.mem = s.mem := congrArg (·.mem) h.rest
theorem Accounted.txLog (h : Accounted p s w) : w.txLog = s.txLog := congrArg (·.txLog) h.rest
theorem Accounted.cbLog (h : Accounted p s w) : w.cbLog = s.cbLog := congrArg (·.cbLog) h.rest
theorem Accounted.draws (h : Accounted p s w) : w.draws = s.draws := congrArg (·.draws) h.rest

theorem Accounted.route (h : Accounted p s w) : w.route (s.chan p).pipe = s.route (s.chan p).pipe := by
  have hdir := congrArg Pipe.dir h.record
  have hcur := congrArg Pipe.curDir h.record
  cases hd : (s.chan p).dirn <;> rw [hd] at hdir hcur <;> exact route_congr h.cfg hdir hcur

theorem Accounted.mps (h : Accounted p s w) : (w.pipe (s.chan p).pipe).mps = (s.pipe (s.chan p).pipe).mps := by
  have hmps := congrArg Pipe.mps h.record
  cases hd : (s.chan p).dirn <;> rw [hd] at hmps <;> exact hmps

/-- The one-shot remainder is a write under way (R156). -/
theorem OneShot.writing (h : OneShot i .tx v u) (ha : Acquired i .c w v) (hs : (w.port .c).stage = [])
    (hr : w.route i = .tx) : Writing i u where
  route := by
    rw [← hr]
    exact route_congr (h.frame.cfg.trans ha.cfg) (by rw [h.record, ← ha.pipe]; rfl) (by rw [h.record, ← ha.pipe]; rfl)
  armed := by rw [h.record]; rfl
  owner := h.portC_owner ha
  stage := h.portC_stage ha hs

theorem OneShot.writtenOut (h : OneShot i .tx v u) (ha : Acquired i .c w v) (ht : WrittenOut i u t) :
    WrittenOut i w t := by
  obtain ⟨htx, hcb, hslot, hmem⟩ := ht
  have hpipe := h.record
  have hmem' : u.mem = w.mem := h.data.mem.trans ha.mem
  rw [ha.pipe] at hpipe
  rw [hpipe, hmem', h.data.txLog, ha.txLog] at htx
  rw [hpipe, h.data.cbLog, ha.cbLog] at hcb
  exact ⟨htx, hcb, hslot, hmem.trans hmem'⟩

/-- A write of which nothing remains is written out by the zero-length packet (R155). -/
theorem Completed.writtenOut (ha : Acquired i f w v)
    (h : Completed i .tx .exact { v with txLog := v.txLog ++ [⟨i, [], true⟩] } u)
    (hr : (w.pipe i).slotTx.remaining.toNat = 0) (hm : 1 ≤ (w.pipe i).mps) : WrittenOut i w u := by
  have hcb : u.cbLog = v.cbLog ++
      [⟨(v.pipe i).slotTx.cb, i, .exact, (v.pipe i).slotTx.reqLen.toNat - (v.pipe i).slotTx.remaining.toNat⟩] :=
    h.callbacks
  refine ⟨?_, ?_, by rw [h.record]; rfl, h.mem.trans ha.mem⟩
  · rw [h.logs.1, hr, memRead, writePackets_short hm, ← ha.txLog]
  · rw [hcb, ha.pipe, hr, Nat.sub_zero, ha.cbLog]

theorem eventsOfWrite_pos {n m : Nat} (hm : 1 ≤ m) (hn : 0 < n) : eventsOfWrite n m = (n + m - 1) / m :=
  Nat.max_eq_right ((Nat.one_le_div_iff hm).2 (by omega))

/-- Every block of a write has been moved and the interrupt of its live binding is pending; both ports the end may need
can be had. -/
structure BlocksDone (p : DPort) (s : State) : Prop where
  strategy : s.cfg.strategy ≠ .cpuOnly
  noPush : s.cfg.pushFirstOnWrite = false
  clear : (drawClearPolls s).1 ≤ s.cfg.portClearMaxSpin
  done : (s.chan p).done = true
  live : s.dmaLive p
  dirn : (s.chan p).dirn = .tx
  full : (s.chan p).full = true
  route : s.route (s.chan p).pipe = .tx
  packets : 1 ≤ (s.pipe (s.chan p).pipe).mps
  owner : (s.port p.fport).owner = some (s.chan p).pipe
  stage : (s.port p.fport).stage = []
  stageC : (s.port .c).stage = []

/-- `DMA_IRQ` and the buffer-ready events of the remainder put out what is left (R155, R156). -/
theorem BlocksDone.writtenOut (h : BlocksDone p s) (he : s.pipeOf? e.toNat = some (s.chan p).pipe) :
    let x := ((dmaAccounted p s).pipe (s.chan p).pipe).slotTx
    let m := (s.pipe (s.chan p).pipe).mps
    ∃ t2 t, exec (.dmaIrq p.fport) s = .next t2 ∧
      repeatExec (.hBrdy e) ((x.remaining.toNat + m - 1) / m) t2 = .next t ∧
      WrittenOut (s.chan p).pipe (dmaAccounted p s) t := by
  intro x m
  have hacc : Accounted p s (dmaAccounted p s) := dmaAccounted_accounted
  have hm : 1 ≤ ((dmaAccounted p s).pipe (s.chan p).pipe).mps := by rw [hacc.mps]; exact h.packets
  have hrem := hacc.remaining
  rw [h.dirn] at hrem
  by_cases hr : (s.chan p).bytesMoved < ((s.pipe (s.chan p).pipe).slot .tx).remaining.toNat
  · have hcan : (dmaAccounted p s).CanAcquire (s.chan p).pipe .c :=
      .inr (by rw [hacc.cfg, drawClearPolls_congr hacc.draws]; exact h.clear)
    obtain ⟨v, u, hacq, hone, hu⟩ := dmaRemainder_waits (d := .tx) hcan (.inr (by rw [hacc.cfg]; exact h.noPush))
    have hwriting : Writing (s.chan p).pipe u :=
      hone.writing hacq (by rw [hacc.portC]; exact h.stageC) (by rw [hacc.route]; exact h.route)
    have hcfg : u.cfg = s.cfg := hone.frame.cfg.trans (hacq.cfg.trans hacc.cfg)
    have hmps : (u.pipe (s.chan p).pipe).mps = m := by rw [hone.record, hacq.pipe]; exact hacc.mps
    have hleft : (u.pipe (s.chan p).pipe).slotTx.remaining = x.remaining := by rw [hone.record, hacq.pipe]; rfl
    obtain ⟨t, hrun, hout⟩ := hwriting.repeat_hBrdy ((pipeOf?_congr hcfg _).trans he) (by rw [hmps]; exact h.packets)
    refine ⟨u, t, ?_, ?_, hone.writtenOut hacq hout⟩
    · rw [exec_dmaIrq_remainder h.strategy h.done h.live h.full (by rw [h.dirn]; exact hr), h.dirn, hu]
    · have hpos : 0 < x.remaining.toNat := (Nat.sub_pos_of_lt hr).trans_eq hrem.symm
      rwa [hmps, hleft, eventsOfWrite_pos h.packets hpos] at hrun
  · obtain ⟨v, u, hacq, hend, hu⟩ := dmaEnd_write (i := (s.chan p).pipe) (.inl (by rw [hacc.dreq]; exact h.owner))
      (by rw [hacc.stage]; exact h.stage)
    have hzero : x.remaining.toNat = 0 := hrem.trans (by omega)
    refine ⟨u, u, ?_, ?_, hend.writtenOut hacq hzero hm⟩
    · rw [exec_dmaIrq_end h.strategy h.done h.live h.full (by rw [h.dirn]; omega), h.dirn, hu]
    · rw [hzero, Nat.zero_add, Nat.div_eq_of_lt (Nat.sub_lt h.packets Nat.one_pos), repeatExec]

/-! ### The whole write -/

@[simp] theorem blocksSent_cfg : (blocksSent p s).cfg = s.cfg := by simp [blocksSent]
@[simp] theorem blocksSent_pipe (j : PipeId) : (blocksSent p s).pipe j = s.pipe j := by simp [blocksSent]
@[simp] theorem blocksSent_port : (blocksSent p s).port f = s.port f := by simp [blocksSent]
@[simp] theorem blocksSent_chan : (blocksSent p s).chan p = (s.chan p).finishBlocks := by simp [blocksSent]
@[simp] theorem blocksSent_mem : (blocksSent p s).mem = s.mem := by simp [blocksSent]
@[simp] theorem blocksSent_cbLog : (blocksSent p s).cbLog = s.cbLog := by simp [blocksSent]
@[simp] theorem blocksSent_draws : (blocksSent p s).draws = s.draws := by simp [blocksSent]
@[simp] theorem blocksSent_txLog : (blocksSent p s).txLog =
    s.txLog ++ s.dmaPackets p ((s.chan p).crb * (s.chan p).blockSize) := by simp [blocksSent]

/-- When all `n` blocks have been moved, `DMA_IRQ` accounts for `n` times the block size (R155). -/
theorem Chan.finishBlocks_bytesMoved {c : Chan} (hn : 1 ≤ c.blockCount) :
    c.finishBlocks.bytesMoved = c.blockCount * c.blockSize := by
  have hne : ¬ 0 = c.blockCount := by omega
  simp only [Chan.bytesMoved, Chan.finishBlocks, hne, if_false, Nat.sub_zero]
  rw [← Nat.succ_mul, Nat.succ_eq_add_one, Nat.sub_add_cancel hn]

/-- The slot after the blocks of a write and their accounting (R155). -/
theorem blocksSent_slot (hd : (s.chan p).dirn = .tx) (hn : 1 ≤ (s.chan p).crb)
    (hc : (s.chan p).blockCount = (s.chan p).crb) :
    ((dmaAccounted p (blocksSent p s)).pipe (s.chan p).pipe).slotTx =
      (s.pipe (s.chan p).pipe).slotTx.advance ((s.chan p).crb * (s.chan p).blockSize) := by
  have hslot := (dmaAccounted_accounted (p := p) (s := blocksSent p s)).slot
  rw [blocksSent_chan, Chan.finishBlocks_bytesMoved (by omega), hc] at hslot
  simp only [Chan.finishBlocks_pipe, Chan.finishBlocks_dirn, hd, blocksSent_pipe] at hslot
  exact hslot

/-- The blocks and then the rest are the whole write (R158). -/
theorem BlockWriting.writtenOut (h : BlockWriting p s) (hc : (s.chan p).blockCount = (s.chan p).crb)
    (ha : (s.chan p).addr = (s.pipe (s.chan p).pipe).slotTx.buf)
    (hle : (s.chan p).crb * (s.chan p).blockSize ≤ (s.pipe (s.chan p).pipe).slotTx.remaining.toNat)
    (ht : WrittenOut (s.chan p).pipe (dmaAccounted p (blocksSent p s)) t) : WrittenOut (s.chan p).pipe s t := by
  obtain ⟨htx, hcb, hslot, hmem⟩ := ht
  have hacc : Accounted p (blocksSent p s) (dmaAccounted p (blocksSent p s)) := dmaAccounted_accounted
  have hmps := hacc.mps
  simp only [blocksSent_chan, Chan.finishBlocks_pipe, blocksSent_pipe] at hmps
  rw [blocksSent_slot h.dirn h.crb_pos hc] at htx hcb
  rw [hacc.cbLog, blocksSent_cbLog] at hcb
  rw [hacc.mem, blocksSent_mem] at hmem
  refine ⟨?_, hcb, hslot, hmem⟩
  obtain ⟨q, hq⟩ := h.whole
  have hlen : (memRead s.mem (s.chan p).addr ((s.chan p).crb * (s.chan p).blockSize)).length =
      (s.chan p).crb * q * (s.pipe (s.chan p).pipe).mps := by
    rw [length_memRead, hq, Nat.mul_assoc, Nat.mul_comm q]
  rw [htx, hacc.txLog, blocksSent_txLog, hmps, hacc.mem, blocksSent_mem, Slot.advance_remaining, Slot.advance, ← ha,
    List.append_assoc]
  conv_rhs => rw [← Nat.add_sub_cancel' hle, memRead_add, writePackets_blocks h.packets hlen, ← hlen, length_memRead]
  rfl

/-- Settles O42: the blocks by induction on their number, then `DMA_IRQ` and the packet law of the CPU path. -/
theorem dmaWholeWrite : Obligations.DmaWholeWrite := by
  intro p e s i hs hpush hi h0 hdir hstate hpath hpid hb hpipe hdirn harm hdone haddr hdreq hown hst hstC hownC hclear
    hB hmod x L m n r hn hcount hcrb
  subst hpipe
  have hm : 1 ≤ m := Nat.pos_of_dvd_of_pos (Nat.dvd_of_mod_eq_zero hmod) hB
  have hblocks : BlockWriting p s := ⟨hs, hdirn, canMoveBlock_iff.2 ⟨hb, harm, hdone, by omega, hdreq, hown, hpid⟩, hm,
    Nat.dvd_of_mod_eq_zero hmod⟩
  have hend : BlocksDone p (blocksSent p s) :=
    { strategy := by simpa using hs
      noPush := by simpa using hpush
      clear := by rw [drawClearPolls_congr blocksSent_draws, blocksSent_cfg]; exact hclear
      done := by simp
      live := by simp [State.dmaLive, hb, hdirn, Pipe.slot, hstate, hpath]
      dirn := by simpa using hdirn
      full := by simp
      route := by rw [route_congr (s := s) (by simp) (by simp) (by simp)]; simpa [State.route, h0] using hdir
      packets := by simpa using hm
      owner := by simpa using hown
      stage := by simpa using hst
      stageC := by simpa using hstC }
  have he : (blocksSent p s).pipeOf? e.toNat = some ((blocksSent p s).chan p).pipe := by
    rw [pipeOf?_congr blocksSent_cfg, hi]
    simp
  obtain ⟨t2, t, hirq, hrest, hout⟩ := hend.writtenOut he
  have hrun := hblocks.repeat_dmaBlock
  rw [hcrb] at hrun
  have hle : (s.chan p).crb * (s.chan p).blockSize ≤ L := by rw [hcrb]; exact Nat.div_mul_le_self ..
  have hleft : L - (s.chan p).crb * (s.chan p).blockSize = r := by
    rw [hcrb]
    exact (Nat.mod_eq_sub_div_mul ..).symm
  simp only [blocksSent_chan, Chan.finishBlocks_pipe, blocksSent_pipe] at hrest hout
  rw [blocksSent_slot hdirn (by omega) (by omega), Slot.advance_remaining, hleft] at hrest
  obtain ⟨htx, hcb, hslot, hmem⟩ := hblocks.writtenOut (by omega) haddr hle hout
  exact ⟨_, t2, t, hrun, hirq, hrest, htx, hcb, hslot, hmem⟩

end Sys2Proof.Machine
end

section
/-! SUPPORT. The transfer state machine does not consult the link state (R181): with any link records and any link enable
bits in their place, every read of a transfer operation answers the same, every update commutes with putting them there,
and so does the operation. Put the present ones in their place, and the same equation says that the operation leaves them
alone. The reads are proved by `(rfl)`, so that `simp` does not rewrite a condition's decision procedure with them. -/

namespace Sys2Proof.Machine

variable {s t : State} {l : Vector Link 2} {e : BitVec 8}

/-- The same state with other link records and other link enable bits. -/
def State.withLinks (s : State) (l : Vector Link 2) (e : BitVec 8) : State := { s with links := l, linkenb := e }

/-! ### Reads -/

@[simp] theorem withLinks_port (p : FPort) : (s.withLinks l e).port p = s.port p := by
  cases p <;> rfl

@[simp] theorem withLinks_chan (p : DPort) : (s.withLinks l e).chan p = s.chan p := by
  cases p <;> rfl

@[simp] theorem withLinks_cfg : (s.withLinks l e).cfg = s.cfg := (rfl)

@[simp] theorem withLinks_pipe (j : PipeId) : (s.withLinks l e).pipe j = s.pipe j := (rfl)

@[simp] theorem withLinks_ctrl : (s.withLinks l e).ctrl = s.ctrl := (rfl)

@[simp] theorem withLinks_mem : (s.withLinks l e).mem = s.mem := (rfl)

@[simp] theorem withLinks_draws : (s.withLinks l e).draws = s.draws := (rfl)

@[simp] theorem withLinks_ret : (s.withLinks l e).ret = s.ret := (rfl)

@[simp] theorem withLinks_enb_brdy (j : PipeId) : (s.withLinks l e).enb (.brdy j) = s.enb (.brdy j) := (rfl)

@[simp] theorem withLinks_enb_nrdy (j : PipeId) : (s.withLinks l e).enb (.nrdy j) = s.enb (.nrdy j) := (rfl)

@[simp] theorem withLinks_enb_bemp (j : PipeId) : (s.withLinks l e).enb (.bemp j) = s.enb (.bemp j) := (rfl)

@[simp] theorem withLinks_route (j : PipeId) : (s.withLinks l e).route j = s.route j := (rfl)

@[simp] theorem withLinks_xdir (j : PipeId) : (s.withLinks l e).xdir j = s.xdir j := (rfl)

@[simp] theorem withLinks_busy (j : PipeId) : (s.withLinks l e).busy j = s.busy j := (rfl)

@[simp] theorem withLinks_pipeOf? (n : Nat) : (s.withLinks l e).pipeOf? n = s.pipeOf? n := (rfl)

@[simp] theorem withLinks_blockSize (p : DPort) : (s.withLinks l e).blockSize p = s.blockSize p := (rfl)

@[simp] theorem withLinks_delegates (j : PipeId) (n : Nat) (p : DPort) :
    (s.withLinks l e).delegates j n p = s.delegates j n p := (rfl)

@[simp] theorem withLinks_dmaStale (p : DPort) : (s.withLinks l e).dmaStale p = s.dmaStale p := by
  simp [State.dmaStale]

@[simp] theorem withLinks_canMoveBlock (p : DPort) : (s.withLinks l e).canMoveBlock p = s.canMoveBlock p := by
  simp [State.canMoveBlock]

/-! ### Updates -/

@[simp] theorem ite_withLinks {c : Prop} [Decidable c] (t u : State) :
    (if c then t.withLinks l e else u.withLinks l e) = (if c then t else u).withLinks l e := by
  split <;> rfl

@[simp] theorem modPipe_withLinks (j : PipeId) (f : Pipe → Pipe) :
    (s.withLinks l e).modPipe j f = (s.modPipe j f).withLinks l e := rfl

@[simp] theorem modCtrl_withLinks (f : Ctrl → Ctrl) :
    (s.withLinks l e).modCtrl f = (s.modCtrl f).withLinks l e := rfl

@[simp] theorem modPort_withLinks (p : FPort) (f : Port → Port) :
    (s.withLinks l e).modPort p f = (s.modPort p f).withLinks l e := by
  cases p <;> rfl

@[simp] theorem modChan_withLinks (p : DPort) (f : Chan → Chan) :
    (s.withLinks l e).modChan p f = (s.modChan p f).withLinks l e := by
  cases p <;> rfl

@[simp] theorem setSts_withLinks (x : Source) (b : Bool) :
    (s.withLinks l e).setSts x b = (s.setSts x b).withLinks l e := by
  cases x <;> rfl

@[simp] theorem setEnb_brdy_withLinks (j : PipeId) (b : Bool) :
    (s.withLinks l e).setEnb (.brdy j) b = (s.setEnb (.brdy j) b).withLinks l e := rfl

@[simp] theorem setEnb_nrdy_withLinks (j : PipeId) (b : Bool) :
    (s.withLinks l e).setEnb (.nrdy j) b = (s.setEnb (.nrdy j) b).withLinks l e := rfl

@[simp] theorem setEnb_bemp_withLinks (j : PipeId) (b : Bool) :
    (s.withLinks l e).setEnb (.bemp j) b = (s.setEnb (.bemp j) b).withLinks l e := rfl

@[simp] theorem returns_withLinks (r : Status) : (s.withLinks l e).returns r = (s.returns r).withLinks l e := rfl

@[simp] theorem setToggles_withLinks (t : BitVec 16) :
    (s.withLinks l e).setToggles t = (s.setToggles t).withLinks l e := rfl

@[simp] theorem setMem_withLinks (m : Memory) : (s.withLinks l e).setMem m = (s.setMem m).withLinks l e := rfl

@[simp] theorem addTx_withLinks (x : List TxEntry) : (s.withLinks l e).addTx x = (s.addTx x).withLinks l e := rfl

@[simp] theorem addFifo_withLinks (x : List FifoEntry) :
    (s.withLinks l e).addFifo x = (s.addFifo x).withLinks l e := rfl

@[simp] theorem addTime_withLinks (x : TimeEntry) : (s.withLinks l e).addTime x = (s.addTime x).withLinks l e := rfl

@[simp] theorem addCb_withLinks (x : CbEntry) : (s.withLinks l e).addCb x = (s.addCb x).withLinks l e := rfl

@[simp] theorem addSetup_withLinks (v : Vector Byte 8) :
    (s.withLinks l e).addSetup v = (s.addSetup v).withLinks l e := rfl

/-! ### Draws -/

@[simp] theorem drawClearPolls_withLinks :
    drawClearPolls (s.withLinks l e) = ((drawClearPolls s).1, (drawClearPolls s).2.withLinks l e) := by
  simp only [drawClearPolls, withLinks_draws]
  split <;> rfl

@[simp] theorem drawRxBlock_withLinks (b : Nat) :
    drawRxBlock b (s.withLinks l e) = ((drawRxBlock b s).1, (drawRxBlock b s).2.withLinks l e) := by
  simp only [drawRxBlock, withLinks_draws]
  split <;> rfl

@[simp] theorem drawToggles_withLinks :
    drawToggles (s.withLinks l e) = ((drawToggles s).1, (drawToggles s).2.withLinks l e) := by
  simp only [drawToggles, withLinks_draws]
  split <;> rfl

@[simp] theorem hwToggles_withLinks : hwToggles (s.withLinks l e) = (hwToggles s).withLinks l e := by
  simp [hwToggles]

/-! ### The shared operations -/

@[simp] theorem disableSources_withLinks (j : PipeId) :
    disableSources j (s.withLinks l e) = (disableSources j s).withLinks l e := by
  simp [disableSources]

@[simp] theorem clearStatus_withLinks (j : PipeId) :
    clearStatus j (s.withLinks l e) = (clearStatus j s).withLinks l e := by
  simp [clearStatus]

@[simp] theorem restoreSources_withLinks (j : PipeId) (b n m : Bool) :
    restoreSources j b n m (s.withLinks l e) = (restoreSources j b n m s).withLinks l e := by
  simp [restoreSources]

@[simp] theorem logFifo_withLinks (p : FPort) (rw : Rw) (bs : List Byte) :
    logFifo p rw bs (s.withLinks l e) = (logFifo p rw bs s).withLinks l e := by
  simp [logFifo]

@[simp] theorem fifoWrite_withLinks (p : FPort) (bs : List Byte) :
    fifoWrite p bs (s.withLinks l e) = (fifoWrite p bs s).withLinks l e := by
  simp [fifoWrite]

@[simp] theorem fifoRead_withLinks (p : FPort) (j : PipeId) (n : Nat) :
    fifoRead p j n (s.withLinks l e) = ((fifoRead p j n s).1, (fifoRead p j n s).2.withLinks l e) := by
  simp [fifoRead]

@[simp] theorem commit_withLinks (p : FPort) (j : PipeId) (b : Bool) :
    commit p j b (s.withLinks l e) = (commit p j b s).withLinks l e := by
  simp [commit]

@[simp] theorem clearPort_withLinks (p : FPort) :
    clearPort p (s.withLinks l e) = ((clearPort p s).1, (clearPort p s).2.withLinks l e) := by
  simp only [clearPort, drawClearPolls_withLinks, withLinks_cfg]
  split <;> simp

@[simp] theorem dropPort_withLinks (j : PipeId) (p q : FPort) :
    dropPort j p q (s.withLinks l e) = (dropPort j p q s).withLinks l e := by
  simp [dropPort]

@[simp] theorem dropOthers_withLinks (j : PipeId) (p : FPort) :
    dropOthers j p (s.withLinks l e) = (dropOthers j p s).withLinks l e := by
  simp [dropOthers]

@[simp] theorem bindOrWedge_withLinks (j : PipeId) (p : FPort) :
    bindOrWedge j p (s.withLinks l e) = ((bindOrWedge j p s).1, (bindOrWedge j p s).2.withLinks l e) := by
  simp [bindOrWedge]

@[simp] theorem acquirePort_withLinks (j : PipeId) (p : FPort) :
    acquirePort j p (s.withLinks l e) = ((acquirePort j p s).1, (acquirePort j p s).2.withLinks l e) := by
  simp only [acquirePort, withLinks_port]
  split <;> simp

@[simp] theorem ctrlDataDone_withLinks (r : Result) :
    ctrlDataDone r (s.withLinks l e) = (ctrlDataDone r s).withLinks l e := by
  simp [ctrlDataDone]

@[simp] theorem finish_withLinks (j : PipeId) (d : Dir) (r : Result) :
    finish j d r (s.withLinks l e) = (finish j d r s).withLinks l e := by
  simp [finish, callback]

@[simp] theorem complete_withLinks (j : PipeId) (d : Dir) (r : Result) :
    complete j d r (s.withLinks l e) = (complete j d r s).withLinks l e := by
  simp [complete]

@[simp] theorem dropChan_withLinks (j : PipeId) (p : DPort) :
    dropChan j p (s.withLinks l e) = (dropChan j p s).withLinks l e := by
  simp [dropChan]

@[simp] theorem clearOwned_withLinks (j : PipeId) (p : FPort) :
    clearOwned j p (s.withLinks l e) = (clearOwned j p s).withLinks l e := by
  simp [clearOwned]

@[simp] theorem finishIfBusy_withLinks (j : PipeId) (d : Dir) (r : Result) :
    finishIfBusy j d r (s.withLinks l e) = (finishIfBusy j d r s).withLinks l e := by
  simp [finishIfBusy]

@[simp] theorem quiesce_withLinks (j : PipeId) :
    quiesce j (s.withLinks l e) = (quiesce j s).withLinks l e := by
  simp [quiesce]

@[simp] theorem terminateAll_withLinks (j : PipeId) (r : Result) :
    terminateAll j r (s.withLinks l e) = (terminateAll j r s).withLinks l e := by
  simp [terminateAll]

@[simp] theorem terminateIfBusy_withLinks (j : PipeId) (r : Result) :
    terminateIfBusy j r (s.withLinks l e) = (terminateIfBusy j r s).withLinks l e := by
  simp [terminateIfBusy]

@[simp] theorem releasePipe_withLinks (j : PipeId) :
    releasePipe j (s.withLinks l e) = (releasePipe j s).withLinks l e := by
  simp [releasePipe]

/-! ### The CPU path -/

@[simp] theorem advanceSlot_withLinks (j : PipeId) (d : Dir) (n : Nat) :
    advanceSlot j d n (s.withLinks l e) = (advanceSlot j d n s).withLinks l e := by
  simp [advanceSlot]

@[simp] theorem writeOwned_withLinks (j : PipeId) :
    writeOwned j (s.withLinks l e) = (writeOwned j s).withLinks l e := by
  simp [writeOwned]

@[simp] theorem writeChunk_withLinks (j : PipeId) :
    writeChunk j (s.withLinks l e) = (writeChunk j s).withLinks l e := by
  simp [writeChunk]

@[simp] theorem readOwned_withLinks (j : PipeId) (pkt : List Byte) :
    readOwned j pkt (s.withLinks l e) = (readOwned j pkt s).withLinks l e := by
  simp [readOwned]

@[simp] theorem readChunk_withLinks (j : PipeId) :
    readChunk j (s.withLinks l e) = (readChunk j s).withLinks l e := by
  simp only [readChunk, withLinks_pipe]
  split <;> simp

@[simp] theorem armCpu_withLinks (j : PipeId) (d : Dir) (b n c : Word) :
    armCpu j d b n c (s.withLinks l e) = (armCpu j d b n c s).withLinks l e := by
  simp [armCpu]

@[simp] theorem pushFirst_withLinks (j : PipeId) (d : Dir) :
    pushFirst j d (s.withLinks l e) = (pushFirst j d s).withLinks l e := by
  simp [pushFirst]

@[simp] theorem startCommon_withLinks (j : PipeId) (d : Dir) (b n c : Word) :
    startCommon j d b n c (s.withLinks l e) = (startCommon j d b n c s).withLinks l e := by
  simp [startCommon]

@[simp] theorem handleBrdy_withLinks (j : PipeId) :
    handleBrdy j (s.withLinks l e) = (handleBrdy j s).withLinks l e := by
  simp only [handleBrdy, withLinks_route, withLinks_pipe]
  split <;> [skip; split] <;> simp

@[simp] theorem handleNrdy_withLinks (j : PipeId) :
    handleNrdy j (s.withLinks l e) = (handleNrdy j s).withLinks l e := by
  simp [handleNrdy, retryNotReady, delay]

/-! ### The DMA path -/

@[simp] theorem armDma_withLinks (j : PipeId) (d : Dir) (b n c : Word) (p : DPort) :
    armDma j d b n c p (s.withLinks l e) = (armDma j d b n c p s).withLinks l e := by
  simp [armDma]

@[simp] theorem dmaStart_withLinks (j : PipeId) (b n : Word) (p : DPort) (c : Word) :
    dmaStart j b n p c (s.withLinks l e) = (dmaStart j b n p c s).withLinks l e := by
  simp [dmaStart]

@[simp] theorem dmaAccount_withLinks (p : DPort) :
    dmaAccount p (s.withLinks l e) = (dmaAccount p s).withLinks l e := by
  simp [dmaAccount]

@[simp] theorem dmaRemainder_withLinks (j : PipeId) (d : Dir) :
    dmaRemainder j d (s.withLinks l e) = (dmaRemainder j d s).withLinks l e := by
  simp [dmaRemainder]

@[simp] theorem dmaEnd_withLinks (p : DPort) (j : PipeId) (d : Dir) :
    dmaEnd p j d (s.withLinks l e) = (dmaEnd p j d s).withLinks l e := by
  cases d <;> simp [dmaEnd]

@[simp] theorem dmaComplete_withLinks (p : DPort) (c : Chan) :
    dmaComplete p c (s.withLinks l e) = (dmaComplete p c s).withLinks l e := by
  simp [dmaComplete]

@[simp] theorem moveBlock_withLinks (p : DPort) :
    moveBlock p (s.withLinks l e) = (moveBlock p s).withLinks l e := by
  simp only [moveBlock, withLinks_chan]
  split <;> simp

/-! ### Control requests, and the pipes of a detached device -/

@[simp] theorem handleSetup_withLinks : handleSetup (s.withLinks l e) = (handleSetup s).withLinks l e := by
  simp [handleSetup]

@[simp] theorem ctrlAck_withLinks : ctrlAck (s.withLinks l e) = (ctrlAck s).withLinks l e := by
  simp [ctrlAck]

@[simp] theorem stallControl_withLinks (r : Result) :
    stallControl r (s.withLinks l e) = (stallControl r s).withLinks l e := by
  simp [stallControl]

@[simp] theorem ctrlData_withLinks (b n c : Word) :
    ctrlData b n c (s.withLinks l e) = (ctrlData b n c s).withLinks l e := by
  simp [ctrlData, ctrlDataResult]

@[simp] theorem handleStsdone_withLinks : handleStsdone (s.withLinks l e) = (handleStsdone s).withLinks l e := by
  simp [handleStsdone]

@[simp] theorem detachPipe_withLinks (a : BitVec 7) (s : State) (j : PipeId) :
    detachPipe a (s.withLinks l e) j = (detachPipe a s j).withLinks l e := by
  simp [detachPipe]

/-! ### Outcomes -/

/-- From this state `f` does the same with other link records and other link enable bits. -/
def IgnoresLinks (l : Vector Link 2) (e : BitVec 8) (s : State) (f : State → Host.Outcome State Fault Refusal) : Prop :=
  f (s.withLinks l e) = mapNext (·.withLinks l e) (f s)

theorem ctrlCommand_ignoresLinks (f : State → State) (hf : f (s.withLinks l e) = (f s).withLinks l e) :
    IgnoresLinks l e s fun s => ctrlCommand s (f s) := by
  simp [IgnoresLinks, ctrlCommand, hf]

theorem ctrlHandler_ignoresLinks (f : State → State) (hf : f (s.withLinks l e) = (f s).withLinks l e) :
    IgnoresLinks l e s fun s => ctrlHandler s (f s) := by
  simp only [IgnoresLinks, ctrlHandler, withLinks_cfg]
  split <;> simp [hf]

theorem hwPipeStep_ignoresLinks (idx : BitVec 8) (en : State → PipeId → Bool) (f : State → PipeId → State)
    (hen : ∀ j, en (s.withLinks l e) j = en s j) (hf : ∀ j, f (s.withLinks l e) j = (f s j).withLinks l e) :
    IgnoresLinks l e s fun s => hwPipeStep idx s (en s) (f s) := by
  simp only [IgnoresLinks, hwPipeStep, withLinks_pipeOf?, hen]
  split <;> [skip; split] <;> simp [hf]

theorem setSts_ignoresLinks (idx : BitVec 8) (en : State → PipeId → Bool) (x : PipeId → Source)
    (hen : ∀ j, en (s.withLinks l e) j = en s j) :
    IgnoresLinks l e s fun s => hwPipeStep idx s (en s) fun j => s.setSts (x j) true :=
  hwPipeStep_ignoresLinks idx en (fun s j => s.setSts (x j) true) hen fun j => setSts_withLinks (x j) true

/-! ### The operations outside the host-link family -/

theorem execConfigurePipe_ignoresLinks (idx : BitVec 8) (ty : TType) (d : UsbDir) (m : BitVec 11)
    (a : Option (BitVec 7)) : IgnoresLinks l e s (execConfigurePipe idx ty d m a) := by
  simp only [IgnoresLinks, execConfigurePipe, withLinks_pipeOf?, withLinks_cfg, withLinks_busy]
  split <;> [skip; split <;> [skip; split]] <;> simp

theorem execReleasePipe_ignoresLinks (idx : BitVec 8) : IgnoresLinks l e s (execReleasePipe idx) := by
  simp only [IgnoresLinks, execReleasePipe, withLinks_pipeOf?]
  split <;> simp

theorem execAcquirePort_ignoresLinks (idx : BitVec 8) (f : FPort) : IgnoresLinks l e s (execAcquirePort idx f) := by
  simp only [IgnoresLinks, execAcquirePort, withLinks_pipeOf?, withLinks_pipe]
  split <;> [skip; split <;> [skip; split]] <;> simp [acquireResult]

theorem execRead_ignoresLinks (idx : BitVec 8) (b n c : Word) : IgnoresLinks l e s (execRead idx b n c) := by
  simp only [IgnoresLinks, execRead, withLinks_pipeOf?]
  split <;> simp

theorem execWrite_ignoresLinks (idx : BitVec 8) (b n c : Word) : IgnoresLinks l e s (execWrite idx b n c) := by
  simp only [IgnoresLinks, execWrite, withLinks_pipeOf?]
  split <;> simp

theorem execStop_ignoresLinks (idx : BitVec 8) : IgnoresLinks l e s (execStop idx) := by
  simp only [IgnoresLinks, execStop, withLinks_pipeOf?]
  split <;> simp

theorem execDmaStart_ignoresLinks (idx : BitVec 8) (b n : Word) (f : FPort) (c : Word) :
    IgnoresLinks l e s (execDmaStart idx b n f c) := by
  simp only [IgnoresLinks, execDmaStart, withLinks_pipeOf?]
  split <;> simp

theorem dmaIrq_ignoresLinks (p : DPort) : IgnoresLinks l e s (dmaIrq p) := by
  simp only [IgnoresLinks, dmaIrq, withLinks_chan, modChan_withLinks, withLinks_dmaStale]
  split <;> [skip; split] <;> simp

theorem execDmaIrq_ignoresLinks (f : FPort) : IgnoresLinks l e s (execDmaIrq f) := by
  simp only [IgnoresLinks, execDmaIrq, withLinks_cfg, withLinks_chan]
  split <;> [skip; split <;> [skip; split]]
  · rfl
  · rfl
  · rfl
  · exact dmaIrq_ignoresLinks _

theorem execHwRxPacket_ignoresLinks (idx : BitVec 8) (bs : List Byte) :
    IgnoresLinks l e s (execHwRxPacket idx bs) := by
  unfold IgnoresLinks execHwRxPacket
  split
  · rfl
  · exact hwPipeStep_ignoresLinks idx (fun s j => s.canReceive j bs.length)
      (fun s j => (s.modPipe j fun q => { q with rxFifo := some bs }).setSts (.brdy j) true) (fun _ => rfl)
      fun j => by simp

theorem execHwStall_ignoresLinks (idx : BitVec 8) : IgnoresLinks l e s (execHwStall idx) :=
  hwPipeStep_ignoresLinks idx State.canRespond
    (fun s j => (s.modPipe j fun q => { q with pid := .stall }).setSts (.nrdy j) true) (fun _ => rfl) fun j => by simp

theorem execHwSetup_ignoresLinks (bs : List Byte) : IgnoresLinks l e s (execHwSetup bs) := by
  simp only [IgnoresLinks, execHwSetup, withLinks_cfg]
  split <;> [skip; split] <;> simp

theorem execHwStatusDone_ignoresLinks : IgnoresLinks l e s execHwStatusDone := by
  simp only [IgnoresLinks, execHwStatusDone, withLinks_cfg, withLinks_ctrl]
  split <;> [skip; split] <;> simp

theorem execHwSeqErr_ignoresLinks : IgnoresLinks l e s execHwSeqErr := by
  simp only [IgnoresLinks, execHwSeqErr, withLinks_cfg]
  split <;> simp

theorem execDmaBlock_ignoresLinks (f : FPort) : IgnoresLinks l e s (execDmaBlock f) := by
  simp only [IgnoresLinks, execDmaBlock, withLinks_cfg, withLinks_canMoveBlock]
  split <;> [skip; split <;> [skip; split]] <;> simp

theorem execHBrdy_ignoresLinks (p : BitVec 5) : IgnoresLinks l e s (execHBrdy p) := by
  simp only [IgnoresLinks, execHBrdy, withLinks_pipeOf?]
  split <;> simp

theorem execHBemp_ignoresLinks (p : BitVec 5) : IgnoresLinks l e s (execHBemp p) := by
  simp only [IgnoresLinks, execHBemp, withLinks_pipeOf?]
  split <;> simp [handleBemp]

theorem execHNrdy_ignoresLinks (p : BitVec 5) : IgnoresLinks l e s (execHNrdy p) := by
  simp only [IgnoresLinks, execHNrdy, withLinks_pipeOf?]
  split <;> simp

theorem exec_ignoresLinks (i : Instr) (hh : i.hostOnly = false) (hu : i ≠ .usbIrq) : IgnoresLinks l e s (exec i) := by
  cases i with
  | configurePipe idx ty d m a => exact execConfigurePipe_ignoresLinks idx ty d m a
  | releasePipe idx => exact execReleasePipe_ignoresLinks idx
  | acquirePort idx f => exact execAcquirePort_ignoresLinks idx f
  | read idx b n c => exact execRead_ignoresLinks idx b n c
  | write idx b n c => exact execWrite_ignoresLinks idx b n c
  | stop idx => exact execStop_ignoresLinks idx
  | dmaStart idx b n f c => exact execDmaStart_ignoresLinks idx b n f c
  | ctrlAck => exact ctrlCommand_ignoresLinks ctrlAck ctrlAck_withLinks
  | ctrlStall => exact ctrlCommand_ignoresLinks (fun s => (stallControl .stopped s).returns .ok) (by simp)
  | ctrlData b n c => exact ctrlCommand_ignoresLinks (ctrlData b n c) (ctrlData_withLinks b n c)
  | usbIrq => exact absurd rfl hu
  | dmaIrq f => exact execDmaIrq_ignoresLinks f
  | hwRxPacket idx bs => exact execHwRxPacket_ignoresLinks idx bs
  | hwTxReady idx => exact setSts_ignoresLinks idx State.canTransmit .brdy fun _ => rfl
  | hwNotReady idx => exact setSts_ignoresLinks idx State.canRespond .nrdy fun _ => rfl
  | hwStall idx => exact execHwStall_ignoresLinks idx
  | hwBufEmpty idx => exact setSts_ignoresLinks idx (fun s j => (s.pipe j).configured) .bemp fun _ => rfl
  | hwSetup bs => exact execHwSetup_ignoresLinks bs
  | hwStatusDone => exact execHwStatusDone_ignoresLinks
  | hwSeqErr => exact execHwSeqErr_ignoresLinks
  | dmaBlock f => exact execDmaBlock_ignoresLinks f
  | hBrdy p => exact execHBrdy_ignoresLinks p
  | hBemp p => exact execHBemp_ignoresLinks p
  | hNrdy p => exact execHNrdy_ignoresLinks p
  | hSetup => exact ctrlHandler_ignoresLinks handleSetup handleSetup_withLinks
  | hStsdone => exact ctrlHandler_ignoresLinks handleStsdone handleStsdone_withLinks
  | hSeqerr => exact ctrlHandler_ignoresLinks (stallControl .stall) (stallControl_withLinks .stall)
  | linkAttachProcess | linkBusReset | linkSuspend | linkResume | linkSetAddress | hwAttach | hwDetach | hwLinechg
  | hAttach | hDetach | hLinechg => cases hh

/-! ### What ignores the link state leaves it alone -/

/-- The link records and the link enable bits are as before. -/
structure SameLinks (s t : State) : Prop where
  links : t.links = s.links
  linkenb : t.linkenb = s.linkenb

theorem SameLinks.of_withLinks (h : t = t.withLinks s.links s.linkenb) : SameLinks s t := by
  rw [h]; exact ⟨rfl, rfl⟩

/-- An update that commutes with putting other link records in place changes none. -/
theorem SameLinks.of_commutes {f : State → State} (hf : ∀ l e, f (s.withLinks l e) = (f s).withLinks l e) :
    SameLinks s (f s) :=
  .of_withLinks (hf s.links s.linkenb)

theorem IgnoresLinks.sameLinks {f : State → Host.Outcome State Fault Refusal}
    (h : IgnoresLinks s.links s.linkenb s f) : NextMeets (SameLinks s) (f s) := by
  intro t ht
  have hself : f s = mapNext (·.withLinks s.links s.linkenb) (f s) := h
  rw [ht] at hself
  exact .of_withLinks (Host.Outcome.next.inj hself)

/-- Settles O57: the operation ignores link records and link enable bits together, and so leaves the enable bits alone. -/
theorem transfersIgnoreLink : Obligations.TransfersIgnoreLink := by
  intro i s l hh hu
  have hs : NextMeets (SameLinks s) (exec i s) := (exec_ignoresLinks i hh hu).sameLinks
  have hi : exec i (s.withLinks l s.linkenb) = mapNext (·.withLinks l s.linkenb) (exec i s) :=
    exec_ignoresLinks i hh hu
  refine hi.trans ?_
  cases hx : exec i s with
  | next t =>
    have hlinkenb : t.linkenb = s.linkenb := (hs t hx).linkenb
    simp only [mapNext_next, State.withLinks, ← hlinkenb]
  | fault r => rfl
  | refused r => rfl

end Sys2Proof.Machine
end

section
/-! SUPPORT. The host-link operations on one physical port (R171, R172, R174, R176 to R179): each turns the port's record
into another one and gates its sources (R41), and stays on that port. -/

namespace Sys2Proof.Machine

variable {k : PortId} {s t : State} {x : Link}

/-! ### The port and the mode -/

theorem portOf?_some {n : Nat} (h : s.portOf? n = some k) : k.val < s.cfg.numPhysPorts := by
  simp only [State.portOf?] at h
  split at h
  · split at h
    · cases h; assumption
    · cases h
  · cases h

theorem linkCommand_host {idx : BitVec 8} (hm : s.cfg.mode = .host) (hk : s.portOf? idx.toNat = some k)
    (f : PortId → State) : linkCommand idx s f = .next (f k) := by
  simp [linkCommand, hk, hm]

theorem linkHandler_host {b : BitVec 3} (hm : s.cfg.mode = .host) (hk : s.portOf? b.toNat = some k)
    (f : PortId → State) : linkHandler b s f = .next (f k) := by
  simp [linkHandler, hk, hm]

/-- The record of port `k` is `x` now, its enable bits are those of its link state, and nothing outside the port's frame
changes. -/
structure Relinked (k : PortId) (x : Link) (s t : State) : Prop where
  link : t.link k = x
  gated : t.Gated k
  frame : OnlyLink k s t

/-- A record whose link state stays as it was: the enable bits may stay as they were. -/
theorem Relinked.of_enb (hg : s.Gated k) (hx : x.state = (s.link k).state) (hl : t.link k = x)
    (he : ∀ y, t.enb y = s.enb y) (hf : OnlyLink k s t) : Relinked k x s t where
  link := hl
  gated := by simpa only [State.Gated, he, hl, hx] using hg
  frame := hf

@[simp] theorem gated_returns (r : Status) : (s.returns r).Gated k ↔ s.Gated k := Iff.rfl

@[simp] theorem gated_notify (e : Event) (j : PortId) (v : Speed) : (notify e j v s).Gated k ↔ s.Gated k := Iff.rfl

/-! ### Attach and line change -/

theorem handleAttach_other (h : (s.link k).state ≠ .detached) : handleAttach k s = s := if_pos h

theorem handleAttach_detached (h : (s.link k).state = .detached) :
    handleAttach k s = enterLink k .attachDetecting s :=
  if_neg (not_not.2 h)

theorem handleAttach_relinked (h : (s.link k).state = .detached) :
    Relinked k { s.link k with state := .attachDetecting } s (handleAttach k s) := by
  rw [handleAttach_detached h]
  exact ⟨by simp, enterLink_gated k _, by simp [OnlyLink.refl]⟩

theorem handleLinechg_other (h : (s.link k).state ≠ .suspended) : handleLinechg k s = s := if_neg h

theorem handleLinechg_suspended (h : (s.link k).state = .suspended) :
    handleLinechg k s = s.modLink k fun l => { l with wakeReq := true } :=
  if_pos h

/-- Settles O43: the handler enters detection on a detached port, and the other marks the wake request of a suspended
one. -/
theorem attachAndLineChange : Obligations.AttachAndLineChange := by
  intro b k s hm hk
  have hattach : exec (.hAttach b) s = .next (handleAttach k s) := linkHandler_host hm hk _
  have hline : exec (.hLinechg b) s = .next (handleLinechg k s) := linkHandler_host hm hk _
  refine ⟨fun h => ?_, fun h => ?_, fun h => ?_, fun h => ?_⟩
  · rw [hattach, handleAttach_other h]
  · obtain ⟨hl, hg, hf⟩ := handleAttach_relinked h
    refine ⟨_, hattach, hl, hg, hf, ?_⟩
    simp [handleAttach_detached h]
  · rw [hline, handleLinechg_other h]
  · refine ⟨_, hline, ?_⟩
    simp [handleLinechg_suspended h, OnlyLink.refl]

/-! ### The address mapping -/

theorem addressTaken_iff {a : BitVec 7} : s.addressTaken k a = true ↔
    ∃ j : PortId, j ≠ k ∧ j.val < s.cfg.numPhysPorts ∧ (s.link j).dev = some a := by
  have hall (j : PortId) : j ∈ allPorts := by fin_cases j <;> decide
  simp [State.addressTaken, List.any_eq_true, hall, and_assoc]

theorem linkSetAddress_notActive (h : (s.link k).state ≠ .active) (a : BitVec 7) :
    linkSetAddress k a s = s.returns .invalidState :=
  if_pos h

theorem linkSetAddress_taken {a : BitVec 7} (h : (s.link k).state = .active) (ht : s.addressTaken k a = true) :
    linkSetAddress k a s = s.returns .invalidArg := by
  simp [linkSetAddress, h, ht]

theorem linkSetAddress_free {a : BitVec 7} (h : (s.link k).state = .active) (ht : s.addressTaken k a = false) :
    linkSetAddress k a s = (s.modLink k fun l => { l with dev := some a }).returns .ok := by
  simp [linkSetAddress, h, ht]

/-- Settles O47: the three outcomes of R176. -/
theorem linkSetAddressCommand : Obligations.LinkSetAddress := by
  intro idx a k s hm hk
  have hx : exec (.linkSetAddress idx a) s = .next (linkSetAddress k a s) := linkCommand_host hm hk _
  refine ⟨fun h => ?_, fun h ht => ?_, fun h ht => ⟨_, hx, ?_⟩⟩
  · rw [hx, linkSetAddress_notActive h]
  · rw [hx, linkSetAddress_taken h (addressTaken_iff.2 ht)]
  · rw [linkSetAddress_free h (Bool.eq_false_iff.2 (addressTaken_iff.not.2 ht))]
    simp [OnlyLink.refl]

/-! ### Suspend and resume -/

theorem linkSuspend_notActive (h : (s.link k).state ≠ .active) : linkSuspend k s = s.returns .invalidState := if_pos h

theorem linkSuspend_relinked (h : (s.link k).state = .active) : Relinked k
    { s.link k with state := .suspended, busActive := false, suspended := true, wakeReq := false } s
    (linkSuspend k s) where
  link := by simp [linkSuspend, h]
  gated := by simp [linkSuspend, h, enterLink_gated]
  frame := by simp [OnlyLink.refl]

theorem linkSuspend_outputs (h : (s.link k).state = .active) : (linkSuspend k s).ret = some .ok ∧
    (linkSuspend k s).evLog = s.evLog ++ [⟨.evSuspend, k, speedOf (s.link k).conn⟩] ∧
    (linkSuspend k s).timeLog = s.timeLog ∧ (linkSuspend k s).draws = s.draws := by
  simp [linkSuspend, h]

theorem linkResume_notSuspended (h : (s.link k).state ≠ .suspended) : linkResume k s = s.returns .invalidState :=
  if_pos h

theorem linkResume_relinked (h : (s.link k).state = .suspended) : Relinked k
    { s.link k with
      state := .active, busActive := true, suspended := false, wakeReq := false, resumeSig := false } s
    (linkResume k s) where
  link := by simp [linkResume, h]
  gated := by simp [linkResume, h, enterLink_gated]
  frame := by simp [OnlyLink.refl]

theorem linkResume_outputs (h : (s.link k).state = .suspended) : (linkResume k s).ret = some .ok ∧
    (linkResume k s).evLog = s.evLog ++ [⟨.evResume, k, speedOf (s.link k).conn⟩] ∧
    (linkResume k s).timeLog = s.timeLog ++ [.delay s.cfg.resumeSettleTime] ∧ (linkResume k s).draws = s.draws := by
  simp [linkResume, h]

/-- Settles O46: each command on the link state it asks for, and on any other. -/
theorem linkSuspendAndResume : Obligations.LinkSuspendAndResume := by
  intro idx k s hm hk
  have hsus : exec (.linkSuspend idx) s = .next (linkSuspend k s) := linkCommand_host hm hk _
  have hres : exec (.linkResume idx) s = .next (linkResume k s) := linkCommand_host hm hk _
  refine ⟨fun h => ?_, fun h => ⟨_, hsus, ?_⟩, fun h => ?_, fun h => ⟨_, hres, ?_⟩⟩
  · rw [hsus, linkSuspend_notActive h]
  · obtain ⟨hl, hg, hf⟩ := linkSuspend_relinked h
    obtain ⟨hret, hev, htime, hdraws⟩ := linkSuspend_outputs h
    exact ⟨hret, hl, hev, htime, hdraws, hg, hf⟩
  · rw [hres, linkResume_notSuspended h]
  · obtain ⟨hl, hg, hf⟩ := linkResume_relinked h
    obtain ⟨hret, hev, htime, hdraws⟩ := linkResume_outputs h
    exact ⟨hret, hl, hev, htime, hdraws, hg, hf⟩

end Sys2Proof.Machine
end

section
/-! SUPPORT. The two polling loops of the host link: the debounce of `LINK_ATTACH_PROCESS` (R172) and the handshake poll of
`LINK_BUS_RESET` (R173, R174), each in terms of the readings it draws. -/

namespace Sys2Proof.Machine

variable {k : PortId} {s t : State}

/-! ### The line: readings and the debounce loop -/

theorem drawLineState_congr (h : t.draws = s.draws) :
    (drawLineState t).1 = (drawLineState s).1 ∧ (drawLineState t).2.draws = (drawLineState s).2.draws := by
  unfold drawLineState
  rw [h]
  split <;> exact ⟨rfl, rfl⟩

theorem lineReadings_congr (n : Nat) (h : t.draws = s.draws) : lineReadings n t = lineReadings n s := by
  induction n generalizing s t with
  | zero => rfl
  | succ n ih =>
    obtain ⟨hread, hrest⟩ := drawLineState_congr h
    rw [lineReadings, lineReadings, hread, ih hrest]

/-- Of the readings `rs` the first two neighbours that agree are numbers `n - 1` and `n`, or none of the `N` pairs does
and these are the last two; `o` is what the line settled on. -/
structure Settled (N n : Nat) (rs : List LineState) (a b : LineState) (o : Option LineState) : Prop where
  pos : 1 ≤ n
  le : n ≤ N
  differ : ∀ j < n - 1, rs[j]? ≠ rs[j + 1]?
  last : rs[n - 1]? = some a
  next : rs[n]? = some b
  ends : a = b ∨ n = N
  answer : o = if a = b then some a else none

/-- Two readings that differ go before the rest. -/
theorem Settled.cons {N n : Nat} {rs : List LineState} {a b c d : LineState} {o : Option LineState} (hne : d ≠ c)
    (h : Settled N n (c :: rs) a b o) : Settled (N + 1) (n + 1) (d :: c :: rs) a b o where
  pos := Nat.le_add_left 1 n
  le := Nat.add_le_add_right h.le 1
  differ j hj := by
    cases j with
    | zero => simpa using hne
    | succ j => exact h.differ j (by omega)
  last := by
    obtain ⟨m, rfl⟩ := Nat.exists_eq_add_of_le' h.pos
    exact h.last
  next := h.next
  ends := h.ends.imp_right (congrArg (· + 1))
  answer := h.answer

/-- The debounce gap and the reading after it (R172). -/
def nextReading (s : State) : LineState × State := drawLineState (delay s.cfg.debounceGap s)

@[simp] theorem nextReading_timeLog : (nextReading s).2.timeLog = s.timeLog ++ [.delay s.cfg.debounceGap] := by
  simp [nextReading]

@[simp] theorem nextReading_cfg : (nextReading s).2.cfg = s.cfg := by simp [nextReading]

theorem lineReadings_succ (n : Nat) : lineReadings (n + 1) s = (nextReading s).1 :: lineReadings n (nextReading s).2 :=
  lineReadings_congr (n + 1) (s := delay s.cfg.debounceGap s) rfl

theorem debounce_agree {a : LineState} (N : Nat) (h : a = (nextReading s).1) :
    debounce (N + 1) a s = (some a, (nextReading s).2) :=
  if_pos h

theorem debounce_differ {a : LineState} (N : Nat) (h : a ≠ (nextReading s).1) :
    debounce (N + 1) a s = debounce N (nextReading s).1 (nextReading s).2 :=
  if_neg h

/-- The debounce loop (R172) with `N` tries left after the reading `a`. -/
theorem debounce_settled (N : Nat) (hN : 1 ≤ N) (a : LineState) (s : State) : ∃ (n : Nat) (c d : LineState),
    Settled N n (a :: lineReadings n s) c d (debounce N a s).1 ∧
    (debounce N a s).2.timeLog = s.timeLog ++ List.replicate n (.delay s.cfg.debounceGap) := by
  induction N generalizing a s with
  | zero => cases hN
  | succ N ih =>
    by_cases heq : a = (nextReading s).1
    · rw [debounce_agree N heq]
      exact ⟨1, a, (nextReading s).1, ⟨le_rfl, hN, by simp, rfl, by simp [lineReadings_succ], .inl heq, by simp [heq]⟩,
        nextReading_timeLog⟩
    · rw [debounce_differ N heq]
      cases N with
      | zero =>
        exact ⟨1, a, (nextReading s).1, ⟨le_rfl, le_rfl, by simp, rfl, by simp [lineReadings_succ], .inr rfl,
          by simp [debounce, heq]⟩, nextReading_timeLog⟩
      | succ N =>
        obtain ⟨n, c, d, hset, hlog⟩ := ih (Nat.le_add_left 1 N) (nextReading s).1 (nextReading s).2
        refine ⟨n + 1, c, d, lineReadings_succ n ▸ hset.cons heq, ?_⟩
        rw [hlog, nextReading_timeLog, nextReading_cfg, List.replicate_succ, List.append_assoc, List.singleton_append]

/-! ### What the line settled on -/

theorem attachOutcome_low {r : Option LineState × State} (h : r.1 = some .lsLow) :
    attachOutcome k r = notify .evAttach k .sLow (setLink k .lowSpeedAttached .cLowSpeed r.2) := by
  simp [attachOutcome, h]

theorem attachOutcome_full {r : Option LineState × State} (h : r.1 = some .lsFull) :
    attachOutcome k r = notify .evAttach k .sFull (setLink k .fullSpeedAttached .cFullSpeed r.2) := by
  simp [attachOutcome, h]

theorem attachOutcome_none {r : Option LineState × State} (hl : r.1 ≠ some .lsLow) (hf : r.1 ≠ some .lsFull) :
    attachOutcome k r = setLink k .detached .cDetached r.2 := by
  unfold attachOutcome
  split <;> simp_all

/-! ### `LINK_ATTACH_PROCESS` -/

/-- What the debounce loop of `LINK_ATTACH_PROCESS` answers (R172). -/
def attachReadings (s : State) : Option LineState × State :=
  debounce s.cfg.debounceMaxTries (drawLineState s).1 (drawLineState s).2

theorem linkAttachProcess_other (h : (s.link k).state ≠ .attachDetecting) :
    linkAttachProcess k s = s.returns .invalidState :=
  if_pos h

theorem linkAttachProcess_detecting (h : (s.link k).state = .attachDetecting) :
    linkAttachProcess k s = (gate k (attachOutcome k (attachReadings s))).returns .ok :=
  if_neg (not_not.2 h)

/-- What the port becomes when the line settled on `o` (R172). -/
def Link.attached (l : Link) (o : Option LineState) : Link :=
  if o = some .lsLow then { l with state := .lowSpeedAttached, conn := .cLowSpeed }
  else if o = some .lsFull then { l with state := .fullSpeedAttached, conn := .cFullSpeed }
  else { l with state := .detached, conn := .cDetached }

/-- The notification when the line settled on `o` (R172). -/
def attachEvents (k : PortId) (o : Option LineState) : List EvEntry :=
  if o = some .lsLow then [⟨.evAttach, k, .sLow⟩] else if o = some .lsFull then [⟨.evAttach, k, .sFull⟩] else []

theorem attachOutcome_link (r : Option LineState × State) :
    (attachOutcome k r).link k = (r.2.link k).attached r.1 := by
  unfold Link.attached
  split
  · next hl => simp [attachOutcome_low hl]
  · next hl =>
    split
    · next hf => simp [attachOutcome_full hf]
    · next hf => simp [attachOutcome_none hl hf]

theorem attachOutcome_evLog (r : Option LineState × State) :
    (attachOutcome k r).evLog = r.2.evLog ++ attachEvents k r.1 := by
  unfold attachEvents
  split
  · next hl => simp [attachOutcome_low hl]
  · next hl =>
    split
    · next hf => simp [attachOutcome_full hf]
    · next hf => simp [attachOutcome_none hl hf]

theorem attachOutcome_timeLog (r : Option LineState × State) : (attachOutcome k r).timeLog = r.2.timeLog := by
  unfold attachOutcome
  split <;> simp

theorem linkAttachProcess_relinked (h : (s.link k).state = .attachDetecting) :
    Relinked k ((s.link k).attached (attachReadings s).1) s (linkAttachProcess k s) where
  link := by simp [linkAttachProcess_detecting h, attachOutcome_link, attachReadings]
  gated := by simp [linkAttachProcess_detecting h, gate_gated]
  frame := by simp [OnlyLink.refl]

/-- Settles O44: the readings are those of the debounce loop, and the port becomes what they settled on. -/
theorem linkAttachProcessCommand : Obligations.LinkAttachProcess := by
  intro idx k s hm hk
  have hx : exec (.linkAttachProcess idx) s = .next (linkAttachProcess k s) := linkCommand_host hm hk _
  refine ⟨fun h => ?_, fun h hN => ?_⟩
  · rw [hx, linkAttachProcess_other h]
  · obtain ⟨n, a, b, hset, hlog⟩ := debounce_settled _ hN (drawLineState s).1 (drawLineState s).2
    obtain ⟨hlink, hgated, hframe⟩ := linkAttachProcess_relinked h
    have hanswer : (attachReadings s).1 = if a = b then some a else none := hset.answer
    have hev : (linkAttachProcess k s).evLog = s.evLog ++ attachEvents k (attachReadings s).1 := by
      simp [linkAttachProcess_detecting h, attachOutcome_evLog, attachReadings]
    refine ⟨n, a, b, _, hx, hset.pos, hset.le, hset.differ, hset.last, hset.next, hset.ends, ?_, ?_, ?_, hgated, hframe⟩
    · simp [linkAttachProcess_detecting h]
    · simpa [linkAttachProcess_detecting h, attachOutcome_timeLog, attachReadings] using hlog
    · rw [hlink, hev, hanswer]
      by_cases hab : a = b <;> cases a <;> simp [hab, Link.attached, attachEvents] <;> simp [← hab]

/-! ### The handshake: readings and the poll -/

theorem drawHandshake_congr (v : Speed) (h : t.draws = s.draws) :
    (drawHandshake v t).1 = (drawHandshake v s).1 ∧ (drawHandshake v t).2.draws = (drawHandshake v s).2.draws := by
  unfold drawHandshake
  rw [h]
  split <;> exact ⟨rfl, rfl⟩

theorem handshakeReadings_congr (v : Speed) (n : Nat) (h : t.draws = s.draws) :
    handshakeReadings v n t = handshakeReadings v n s := by
  induction n generalizing s t with
  | zero => rfl
  | succ n ih =>
    obtain ⟨hread, hrest⟩ := drawHandshake_congr v h
    rw [handshakeReadings, handshakeReadings, hread, ih hrest]

theorem handshakeReadings_delay (v : Speed) (n m : Nat) : handshakeReadings v n (delay m s) = handshakeReadings v n s :=
  handshakeReadings_congr v n rfl

/-- A reading is of the range of R173. -/
theorem drawHandshake_inRange (v : Speed) (s : State) : ∃ h, (drawHandshake v s).1 = handshakeInRange v h := by
  unfold drawHandshake
  split <;> exact ⟨_, rfl⟩

theorem handshakeReadings_inRange {v : Speed} {n : Nat} {h : Handshake} (hh : h ∈ handshakeReadings v n s) :
    ∃ h', h = handshakeInRange v h' := by
  induction n generalizing s with
  | zero => cases hh
  | succ n ih =>
    rcases List.mem_cons.1 hh with rfl | hh
    · exact drawHandshake_inRange v s
    · exact ih hh

theorem handshakeSpeed_eq_none {h : Handshake} : handshakeSpeed h = none ↔ h = .hsInProgress := by
  cases h <;> simp [handshakeSpeed]

/-- A low-speed device negotiates no other speed, a full-speed one no low speed (R173). -/
theorem handshakeSpeed_inRange {h : Handshake} {v : Speed} :
    (handshakeSpeed (handshakeInRange .sLow h) = some v → v = .sLow) ∧
    (handshakeSpeed (handshakeInRange .sFull h) = some v → v = .sFull ∨ v = .sHigh) := by
  cases h <;> cases v <;> decide

/-- The handshake poll (R174) with `n` polls left. -/
theorem resetPoll_readings (v : Speed) (n : Nat) (s : State) :
    (resetPoll v n s).1 = (handshakeReadings v n s).findSome? handshakeSpeed ∧
    (resetPoll v n s).2.timeLog = s.timeLog ++
      List.replicate ((handshakeReadings v n s).takeWhile (· = .hsInProgress)).length (.delay s.cfg.resetPollDelay) := by
  induction n generalizing s with
  | zero => simp [resetPoll, handshakeReadings]
  | succ n ih =>
    rw [handshakeReadings, resetPoll]
    cases hv : handshakeSpeed (drawHandshake v s).1 with
    | some x =>
      have hdone : (drawHandshake v s).1 ≠ .hsInProgress := by simp [← handshakeSpeed_eq_none, hv]
      simp [hv, hdone]
    | none =>
      simp [ih, handshakeReadings_delay, handshakeSpeed_eq_none.1 hv, List.findSome?_cons, handshakeSpeed,
        List.replicate_succ]

/-- The speed of a bus reset that began at the attach-time speed `v` (R173, R174). -/
def resetSpeed (v : Speed) (s : State) : Speed :=
  ((handshakeReadings v s.cfg.resetPollMax s).findSome? handshakeSpeed).getD v

theorem resetSpeed_of_readings {v : Speed} : resetSpeed v s = v ∨
    ∃ h, handshakeSpeed (handshakeInRange v h) = some (resetSpeed v s) := by
  unfold resetSpeed
  cases hf : (handshakeReadings v s.cfg.resetPollMax s).findSome? handshakeSpeed with
  | none => exact .inl rfl
  | some x =>
    obtain ⟨h, hmem, hx⟩ := List.exists_of_findSome?_eq_some hf
    obtain ⟨h', rfl⟩ := handshakeReadings_inRange hmem
    exact .inr ⟨h', hx⟩

theorem resetSpeed_low : resetSpeed .sLow s = .sLow := by
  rcases resetSpeed_of_readings (s := s) (v := .sLow) with h | ⟨h, hx⟩
  · exact h
  · exact handshakeSpeed_inRange.1 hx

theorem resetSpeed_full : resetSpeed .sFull s = .sFull ∨ resetSpeed .sFull s = .sHigh := by
  rcases resetSpeed_of_readings (s := s) (v := .sFull) with h | ⟨h, hx⟩
  · exact .inl h
  · exact handshakeSpeed_inRange.2 hx

/-! ### `LINK_BUS_RESET` -/

theorem attachSpeed_eq_some {x : LinkState} {v : Speed} : attachSpeed x = some v ↔
    (x = .lowSpeedAttached ∧ v = .sLow) ∨ (x = .fullSpeedAttached ∧ v = .sFull) := by
  cases x <;> simp [attachSpeed, eq_comm]

theorem attachSpeed_eq_none {x : LinkState} : attachSpeed x = none ↔
    x ≠ .lowSpeedAttached ∧ x ≠ .fullSpeedAttached := by
  cases x <;> simp [attachSpeed]

theorem linkBusReset_other (h : attachSpeed (s.link k).state = none) : linkBusReset k s = s.returns .invalidState := by
  simp [linkBusReset, h]

@[simp] theorem assertReset_draws (v : Speed) : (assertReset k v s).draws = s.draws := by simp [assertReset]

@[simp] theorem assertReset_cfg (v : Speed) : (assertReset k v s).cfg = s.cfg := by simp [assertReset]

@[simp] theorem assertReset_timeLog (v : Speed) :
    (assertReset k v s).timeLog = s.timeLog ++ [.delay s.cfg.resetAssertTime] := by simp [assertReset]

theorem linkBusReset_attached {v : Speed} (h : attachSpeed (s.link k).state = some v) : linkBusReset k s =
    (finishReset k (resetSpeed v s) (resetPoll v s.cfg.resetPollMax (assertReset k v s)).2).returns .ok := by
  simp [linkBusReset, h, resetSpeed, resetPoll_readings, handshakeReadings_congr v _ (assertReset_draws v)]

theorem linkBusReset_relinked {v : Speed} (h : attachSpeed (s.link k).state = some v) : Relinked k
    { s.link k with state := .active, conn := connOf (resetSpeed v s), busActive := true, resetSig := false } s
    (linkBusReset k s) where
  link := by simp [linkBusReset_attached h, finishReset, assertReset]
  gated := by simp [linkBusReset_attached h, finishReset, enterLink_gated]
  frame := by simp [OnlyLink.refl]

theorem linkBusReset_timeLog {v : Speed} (h : attachSpeed (s.link k).state = some v) : (linkBusReset k s).timeLog =
    s.timeLog ++ [.delay s.cfg.resetAssertTime] ++ List.replicate
      ((handshakeReadings v s.cfg.resetPollMax s).takeWhile (· = .hsInProgress)).length (.delay s.cfg.resetPollDelay) ++
    [.delay s.cfg.resetRecoveryTime] := by
  simp [linkBusReset_attached h, finishReset, resetPoll_readings, handshakeReadings_congr v _ (assertReset_draws v)]

theorem linkBusReset_outputs {v : Speed} (h : attachSpeed (s.link k).state = some v) :
    (linkBusReset k s).ret = some .ok ∧
    (linkBusReset k s).evLog = s.evLog ++ [⟨.evBusResetComplete, k, resetSpeed v s⟩] := by
  simp [linkBusReset_attached h, finishReset, assertReset]

/-- Settles O45: the poll in terms of its readings, and the speeds a device can come to. -/
theorem linkBusResetCommand : Obligations.LinkBusReset := by
  intro idx k s hm hk
  have hx : exec (.linkBusReset idx) s = .next (linkBusReset k s) := linkCommand_host hm hk _
  refine ⟨fun hl hf => ?_, fun att hatt => ?_⟩
  · rw [hx, linkBusReset_other (attachSpeed_eq_none.2 ⟨hl, hf⟩)]
  · have h := attachSpeed_eq_some.2 hatt
    obtain ⟨hlink, hgated, hframe⟩ := linkBusReset_relinked h
    obtain ⟨hret, hev⟩ := linkBusReset_outputs h
    have hlow : att = .sLow → resetSpeed att s = .sLow := by rintro rfl; exact resetSpeed_low
    have hfull : att = .sFull → resetSpeed att s = .sFull ∨ resetSpeed att s = .sHigh := by
      rintro rfl; exact resetSpeed_full
    have hconn : connOf (resetSpeed att s) = if resetSpeed att s = .sLow then .cLowSpeed
        else if resetSpeed att s = .sFull then .cFullSpeed else .cHighSpeed := by
      rcases hatt with ⟨-, h⟩ | ⟨-, h⟩
      · rw [hlow h]; rfl
      · rcases hfull h with h | h <;> rw [h] <;> rfl
    exact ⟨_, hx, hret, linkBusReset_timeLog h, hconn ▸ hlink, hev, hgated, hframe, hlow, hfull⟩

end Sys2Proof.Machine
end

section
/-! SUPPORT. The link invariant (R180, R41): an operation outside the host-link family leaves the link records and their
enable bits alone, one of the family gives an existing port of a host another good record and gates its sources. -/

namespace Sys2Proof.Machine

variable {k : PortId} {s t u : State} {l : Link}

/-! ### The two kinds of change -/

theorem port?_reg {x : Source} (h : x.port? ≠ none) : x.reg = .link := by
  cases x <;> simp_all [Source.port?, Source.reg]

/-- The enable bit of a link source. -/
theorem SameLinks.enb (h : SameLinks s t) {x : Source} (hx : x.port? ≠ none) : t.enb x = s.enb x := by
  simp only [State.enb, port?_reg hx, h.linkenb]

theorem SameLinks.link (h : SameLinks s t) (k : PortId) : t.link k = s.link k := by
  simp only [State.link, h.links]

theorem LinkInv.same (h : LinkInv s) (hc : t.cfg = s.cfg) (hs : SameLinks s t) : LinkInv t where
  good j := hs.link j ▸ h.good j
  gated hm j hj := by
    rw [hc] at hm hj
    have hg : s.Gated j := h.gated hm j hj
    simpa only [State.Gated, hs.link, hs.enb (x := .attach j) nofun, hs.enb (x := .detach j) nofun,
      hs.enb (x := .linechg j) nofun] using hg
  absent x j hx hn := by
    rw [hc] at hn
    rw [hs.enb (by simp [hx]), h.absent x j hx hn]

/-- The operations of the host-link family work on these ports only (R87, R88). -/
structure State.HasPort (s : State) (k : PortId) : Prop where
  host : s.cfg.mode = .host
  exist : k.val < s.cfg.numPhysPorts

theorem State.HasPort.congr (h : s.HasPort k) (hc : t.cfg = s.cfg) : t.HasPort k := ⟨hc ▸ h.host, hc ▸ h.exist⟩

theorem LinkInv.relink (h : LinkInv s) (hk : s.HasPort k) (hl : l.Good) (hr : Relinked k l s t) : LinkInv t where
  good j := by
    by_cases hj : j = k
    · subst hj; rw [hr.link]; exact hl
    · rw [hr.frame.links j hj]; exact h.good j
  gated hm j hj := by
    rw [hr.frame.cfg] at hm hj
    by_cases hjk : j = k
    · subst hjk; exact hr.gated
    · have hother (x : Source) (hx : x.port? = some j) : t.enb x = s.enb x := hr.frame.enb x (by simp [hx, hjk])
      have hg : s.Gated j := h.gated hm j hj
      simpa only [State.Gated, hr.frame.links j hjk, hother (.attach j) rfl, hother (.detach j) rfl,
        hother (.linechg j) rfl] using hg
  absent x j hx hn := by
    rw [hr.frame.cfg] at hn
    have hjk : j ≠ k := by rintro rfl; exact hn ⟨hk.host, hk.exist⟩
    rw [hr.frame.enb x (by simp [hx, hjk]), h.absent x j hx hn]

protected theorem LinkInv.returns (h : LinkInv s) (r : Status) : LinkInv (s.returns r) := h.same rfl ⟨rfl, rfl⟩

/-! ### The transitions of a link record -/

theorem Link.Good.startDetecting (h : l.Good) (hs : l.state = .detached) :
    Link.Good { l with state := .attachDetecting } := by
  obtain ⟨-, hd, -, -, -, hsus, hbus, hneg, hq⟩ := h
  constructor <;> simp_all

theorem Link.Good.attached (h : l.Good) (hs : l.state = .attachDetecting) (o : Option LineState) :
    (l.attached o).Good := by
  obtain ⟨-, -, -, -, -, hsus, hbus, -, hq⟩ := h
  unfold Link.attached
  split <;> [skip; split] <;> constructor <;> simp_all

theorem Link.Good.activate {v : Speed} (h : l.Good) (hs : l.state = .lowSpeedAttached ∨ l.state = .fullSpeedAttached)
    (hv : v ≠ .sNone) :
    Link.Good { l with state := .active, conn := connOf v, busActive := true, resetSig := false } := by
  obtain ⟨-, -, -, -, -, hsus, -, -, hq⟩ := h
  have hn : l.suspended = false := by rcases hs with hs | hs <;> simp_all
  cases v <;> constructor <;> simp_all [connOf]

theorem Link.Good.suspend (h : l.Good) (hs : l.state = .active) :
    Link.Good { l with state := .suspended, busActive := false, suspended := true, wakeReq := false } := by
  obtain ⟨-, hd, -, -, hrun, -, -, hneg, hq⟩ := h
  constructor <;> simp_all

theorem Link.Good.resume (h : l.Good) (hs : l.state = .suspended) :
    Link.Good { l with
      state := .active, busActive := true, suspended := false, wakeReq := false, resumeSig := false } := by
  obtain ⟨-, hd, -, -, hrun, -, -, hneg, hq⟩ := h
  constructor <;> simp_all

theorem Link.Good.detach : l.detach.Good := by
  constructor <;> simp [Link.detach]

/-- The device address and the wake request are in no relation of R180. -/
theorem Link.Good.congr {l' : Link} (h : l.Good)
    (he : { l' with dev := l.dev, wakeReq := l.wakeReq } = l) : l'.Good := by
  rw [← he] at h
  exact ⟨h.settled, h.detached, h.low, h.full, h.running, h.suspended, h.busActive, h.negotiating, h.quiet⟩

/-! ### The commands and handlers of the family -/

section Family

variable (h : LinkInv s) (hk : s.HasPort k)
include h hk

theorem LinkInv.gatedPort : s.Gated k := h.gated hk.host k hk.exist

protected theorem LinkInv.linkAttachProcess : LinkInv (linkAttachProcess k s) := by
  by_cases hs : (s.link k).state = .attachDetecting
  · exact h.relink hk ((h.good k).attached hs _) (linkAttachProcess_relinked hs)
  · rw [linkAttachProcess_other hs]; exact h.returns _

protected theorem LinkInv.linkBusReset : LinkInv (linkBusReset k s) := by
  cases hs : attachSpeed (s.link k).state with
  | none => rw [linkBusReset_other hs]; exact h.returns _
  | some v =>
    have hv : resetSpeed v s ≠ .sNone ∧
        ((s.link k).state = .lowSpeedAttached ∨ (s.link k).state = .fullSpeedAttached) := by
      rcases attachSpeed_eq_some.1 hs with ⟨hst, rfl⟩ | ⟨hst, rfl⟩
      · exact ⟨by simp [resetSpeed_low], .inl hst⟩
      · exact ⟨by rcases resetSpeed_full (s := s) with h | h <;> simp [h], .inr hst⟩
    exact h.relink hk ((h.good k).activate hv.2 hv.1) (linkBusReset_relinked hs)

protected theorem LinkInv.linkSuspend : LinkInv (linkSuspend k s) := by
  by_cases hs : (s.link k).state = .active
  · exact h.relink hk ((h.good k).suspend hs) (linkSuspend_relinked hs)
  · rw [linkSuspend_notActive hs]; exact h.returns _

protected theorem LinkInv.linkResume : LinkInv (linkResume k s) := by
  by_cases hs : (s.link k).state = .suspended
  · exact h.relink hk ((h.good k).resume hs) (linkResume_relinked hs)
  · rw [linkResume_notSuspended hs]; exact h.returns _

protected theorem LinkInv.linkSetAddress (a : BitVec 7) : LinkInv (linkSetAddress k a s) := by
  by_cases hs : (s.link k).state = .active
  · cases ht : s.addressTaken k a with
    | true => rw [linkSetAddress_taken hs ht]; exact h.returns _
    | false =>
      rw [linkSetAddress_free hs ht]
      exact h.relink hk ((h.good k).congr (l' := { s.link k with dev := some a }) rfl)
        (.of_enb (h.gatedPort hk) rfl (by simp) (by simp) (by simp [OnlyLink.refl]))
  · rw [linkSetAddress_notActive hs]; exact h.returns _

protected theorem LinkInv.handleAttach : LinkInv (handleAttach k s) := by
  by_cases hs : (s.link k).state = .detached
  · exact h.relink hk ((h.good k).startDetecting hs) (handleAttach_relinked hs)
  · rw [handleAttach_other hs]; exact h

protected theorem LinkInv.handleLinechg : LinkInv (handleLinechg k s) := by
  by_cases hs : (s.link k).state = .suspended
  · rw [handleLinechg_suspended hs]
    exact h.relink hk ((h.good k).congr (l' := { s.link k with wakeReq := true }) rfl)
      (.of_enb (h.gatedPort hk) rfl (by simp) (by simp) (by simp [OnlyLink.refl]))
  · rw [handleLinechg_other hs]; exact h

end Family

/-! ### The detach handler -/

protected theorem LinkInv.foldl {α : Type} {f : State → α → State} {as : List α}
    (hf : ∀ v, LinkInv v → v.cfg = s.cfg → ∀ a ∈ as, LinkInv (f v a) ∧ (f v a).cfg = s.cfg) (h : LinkInv t)
    (hc : t.cfg = s.cfg) : LinkInv (as.foldl f t) ∧ (as.foldl f t).cfg = s.cfg := by
  induction as generalizing t with
  | nil => exact ⟨h, hc⟩
  | cons a as ih =>
    obtain ⟨ha, hac⟩ := hf t h hc a List.mem_cons_self
    exact ih (fun v hv hvc b hb => hf v hv hvc b (List.mem_cons_of_mem a hb)) ha hac

/-- The pipes of a device that goes away: no link record changes (R175). -/
theorem foldl_detachPipe_sameLinks (a : BitVec 7) (js : List PipeId) (s : State) :
    SameLinks s (js.foldl (detachPipe a) s) :=
  .of_commutes (f := fun s => js.foldl (detachPipe a) s) fun l e => by
    induction js generalizing s with
    | nil => rfl
    | cons j js ih => rw [List.foldl_cons, List.foldl_cons, detachPipe_withLinks, ih]

theorem foldl_detachPipe_cfg (a : BitVec 7) (js : List PipeId) (s : State) : (js.foldl (detachPipe a) s).cfg = s.cfg :=
  (foldl_sameOwn (detachPipe_sameOwn a) js s).cfg

theorem handleDetach_gone (h : (s.link k).state = .detached ∨ (s.link k).state = .attachDetecting) :
    handleDetach k s = s :=
  if_pos h

theorem handleDetach_attached (h : ¬ ((s.link k).state = .detached ∨ (s.link k).state = .attachDetecting)) :
    handleDetach k s = notify .evDetach k .sNone
      (gate k ((allPipes.foldl (detachPipe ((s.link k).dev.getD 0)) s).modLink k Link.detach)) :=
  if_neg h

/-- The port goes back to `Detached` (R175). -/
theorem detachPort_relinked : Relinked k (s.link k).detach s
    (notify .evDetach k .sNone (gate k (s.modLink k Link.detach))) where
  link := by simp
  gated := by simp [gate_gated]
  frame := by simp [OnlyLink.refl]

protected theorem LinkInv.handleDetach (h : LinkInv s) (hk : s.HasPort k) : LinkInv (handleDetach k s) := by
  by_cases hs : (s.link k).state = .detached ∨ (s.link k).state = .attachDetecting
  · rw [handleDetach_gone hs]; exact h
  · rw [handleDetach_attached hs]
    have hc := foldl_detachPipe_cfg ((s.link k).dev.getD 0) allPipes s
    have hp := h.same hc (foldl_detachPipe_sameLinks ((s.link k).dev.getD 0) allPipes s)
    exact hp.relink (hk.congr hc) .detach detachPort_relinked

/-! ### The dispatcher -/

theorem handler_sameLinks {x : Source} (hx : x.port? = none) : SameLinks s (handler x s) := by
  cases x with
  | brdy j => exact .of_commutes fun _ _ => handleBrdy_withLinks j
  | bemp j => exact ⟨rfl, rfl⟩
  | nrdy j => exact .of_commutes fun _ _ => handleNrdy_withLinks j
  | setup => exact .of_commutes fun _ _ => handleSetup_withLinks
  | stsdone => exact .of_commutes fun _ _ => handleStsdone_withLinks
  | seqerr => exact .of_commutes fun _ _ => stallControl_withLinks .stall
  | attach k | detach k | linechg k => cases hx

protected theorem LinkInv.handler (h : LinkInv s) {x : Source} (hx : ∀ k, x.port? = some k → s.HasPort k) :
    LinkInv (handler x s) := by
  cases x with
  | attach k => exact h.handleAttach (hx k rfl)
  | detach k => exact h.handleDetach (hx k rfl)
  | linechg k => exact h.handleLinechg (hx k rfl)
  | brdy | bemp | nrdy | setup | stsdone | seqerr => exact h.same (handler_sameOwn _).cfg (handler_sameLinks rfl)

protected theorem LinkInv.setSts (h : LinkInv s) (x : Source) (b : Bool) : LinkInv (s.setSts x b) :=
  h.same (setSts_cfg s x b) (.of_commutes (f := fun s => s.setSts x b) fun _ _ => setSts_withLinks x b)

protected theorem LinkInv.deliver (h : LinkInv s) {x : Source} (hx : ∀ k, x.port? = some k → s.HasPort k) :
    LinkInv (deliver s x) := by
  unfold deliver
  split
  · exact (h.setSts x false).handler fun k hk => (hx k hk).congr (setSts_cfg s x false)
  · exact (h.handler hx).setSts x false

/-- What is enabled exists (R41). -/
theorem LinkInv.hasPort (h : LinkInv s) {x : Source} (hx : x.port? = some k) (he : s.enb x = true) : s.HasPort k := by
  by_contra hn
  rw [h.absent x k hx fun ⟨hm, hj⟩ => hn ⟨hm, hj⟩] at he
  cases he

protected theorem LinkInv.dispatchReg (h : LinkInv s) (r : EvtReg) : LinkInv (dispatchReg s r) := by
  refine (LinkInv.foldl (s := s) (fun v hv hc x hx => ⟨hv.deliver fun k hk => ?_, ?_⟩) h rfl).1
  · exact (h.hasPort hk (Bool.and_eq_true_iff.1 (List.mem_filter.1 hx).2).2).congr hc
  · exact (deliver_sameOwn v x).cfg.trans hc

protected theorem LinkInv.dispatch (h : LinkInv s) : LinkInv (dispatch s) := by
  unfold dispatch
  generalize allRegs = rs
  induction rs generalizing s with
  | nil => exact h
  | cons r rs ih => exact ih (h.dispatchReg r)

/-! ### Every operation and every step -/

theorem linkCommand_meets_host {P : State → Prop} {idx : BitVec 8} {f : PortId → State} (hret : ∀ r, P (s.returns r))
    (h : ∀ k, s.HasPort k → P (f k)) : NextMeets P (linkCommand idx s f) := by
  unfold linkCommand
  split
  · exact nextMeets_next.2 (hret _)
  · next k hk =>
    split
    · exact nextMeets_next.2 (hret _)
    · next hm => exact nextMeets_next.2 (h k ⟨not_not.1 hm, portOf?_some hk⟩)

theorem linkHandler_meets_host {P : State → Prop} {b : BitVec 3} {f : PortId → State} (h : ∀ k, s.HasPort k → P (f k)) :
    NextMeets P (linkHandler b s f) := by
  unfold linkHandler
  split
  · exact nextMeets_refused _
  · next k hk =>
    split
    · exact nextMeets_refused _
    · next hm => exact nextMeets_next.2 (h k ⟨not_not.1 hm, portOf?_some hk⟩)

theorem execUsbIrq_linkInv (h : LinkInv s) : NextMeets LinkInv (execUsbIrq s) := by
  unfold execUsbIrq
  split <;> simp [h.dispatch]

protected theorem LinkInv.hwToggles (h : LinkInv s) : LinkInv (hwToggles s) :=
  h.same hwToggles_cfg (.of_commutes fun _ _ => hwToggles_withLinks)

theorem exec_linkInv (i : Instr) (h : LinkInv s) : NextMeets LinkInv (exec i s) := by
  by_cases hi : i.hostOnly = false ∧ i ≠ .usbIrq
  · obtain ⟨hh, hu⟩ := hi
    exact fun t ht => h.same (exec_cfg i ht) ((exec_ignoresLinks i hh hu).sameLinks t ht)
  · cases i with
    | linkAttachProcess idx => exact linkCommand_meets_host h.returns fun k hk => h.linkAttachProcess hk
    | linkBusReset idx => exact linkCommand_meets_host h.returns fun k hk => h.linkBusReset hk
    | linkSuspend idx => exact linkCommand_meets_host h.returns fun k hk => h.linkSuspend hk
    | linkResume idx => exact linkCommand_meets_host h.returns fun k hk => h.linkResume hk
    | linkSetAddress idx a => exact linkCommand_meets_host h.returns fun k hk => h.linkSetAddress hk a
    | hwAttach idx => exact hwLinkStep_meets fun k => (h.setSts (.attach k) true).hwToggles
    | hwDetach idx => exact hwLinkStep_meets fun k => (h.setSts (.detach k) true).hwToggles
    | hwLinechg idx => exact hwLinkStep_meets fun k => (h.setSts (.linechg k) true).hwToggles
    | hAttach b => exact linkHandler_meets_host fun k hk => h.handleAttach hk
    | hDetach b => exact linkHandler_meets_host fun k hk => h.handleDetach hk
    | hLinechg b => exact linkHandler_meets_host fun k hk => h.handleLinechg hk
    | usbIrq => exact execUsbIrq_linkInv h
    | _ => exact absurd ⟨rfl, nofun⟩ hi

/-- Settles O21: outside the host-link family nothing of the links changes; inside it one port gets a good record and
gated sources, and the dispatcher runs the family's handlers for ports that exist, since no other source is enabled. -/
theorem stepKeepsLinkInv : Obligations.StepKeepsLinkInv := by
  intro s t h hstep
  cases hin : s.inbox with
  | nil =>
    rw [step_of_inbox_nil hin] at hstep
    cases hstep
    exact h
  | cons x rest =>
    rw [step_of_inbox_cons hin] at hstep
    have hrest : LinkInv (s.setInbox rest) := h.same rfl ⟨rfl, rfl⟩
    exact runInput_meets (fun i => exec_linkInv i hrest) hrest.returns t hstep

end Sys2Proof.Machine
end

section
/-! SUPPORT. Pipes torn off their FIFO ports and DMA channels (R35, R130): a forced termination tears off its pipe, and
tearing off some pipes and then others tears off all of them. -/

namespace Sys2Proof.Machine

variable {i : PipeId} {s t u : State} {c d : PipeId → Bool}

/-- A pipe that is not cut off keeps its mark. -/
theorem CutOff.wedged_eq (h : CutOff c s t) {j : PipeId} (hj : c j = false) : (t.pipe j).wedged = (s.pipe j).wedged :=
  (h.newlyWedged j).resolve_right fun hn => by simp [hj] at hn

/-- A port that belongs to a pipe that is not cut off stays with it. -/
theorem CutOff.owner_kept (h : CutOff c s t) {f : FPort} {j : PipeId} (hj : c j = false)
    (ho : (s.port f).owner = some j) :
    (t.port f).owner = (s.port f).owner ∧ (t.port f).stage = (s.port f).stage :=
  h.unowned f fun i hi hs => by
    rw [Option.some.inj (ho.symm.trans hs)] at hj
    simp [hj] at hi

/-- A pipe that is not cut off gains no port. -/
theorem CutOff.owner_of_owner (h : CutOff c s t) {f : FPort} {j : PipeId} (hj : c j = false)
    (ho : (t.port f).owner = some j) : (s.port f).owner = some j := by
  by_cases hc : ∃ i, c i = true ∧ (s.port f).owner = some i
  · obtain ⟨i, hi, hs⟩ := hc
    rcases h.owned f i hi hs with ⟨hn, -⟩ | ⟨hn, -, -⟩
    · cases hn.symm.trans ho
    · rw [Option.some.inj (hn.symm.trans ho), hj] at hi
      cases hi
  · rw [← (h.unowned f fun i hi hs => hc ⟨i, hi, hs⟩).1]
    exact ho

/-- A port of a pipe that was cut off before is left alone by the next cut. -/
theorem CutOff.kept_of_owner (h : CutOff d t u) {f : FPort} {j : PipeId} (hj : d j = false)
    (ho : (t.port f).owner = none ∨ (t.port f).owner = some j) :
    (u.port f).owner = (t.port f).owner ∧ (u.port f).stage = (t.port f).stage := by
  rcases ho with ho | ho
  · exact h.unowned f fun i _ => by simp [ho]
  · exact h.owner_kept hj ho

section Trans

variable (h : CutOff c s t) (g : CutOff d t u) (hcd : ∀ j, c j = true → d j = false)
include h g hcd

theorem CutOff.trans_owned {f : FPort} {j : PipeId} (hj : (c j || d j) = true) (ho : (s.port f).owner = some j) :
    ((u.port f).owner = none ∧ (u.port f).stage = []) ∨
    ((u.port f).owner = some j ∧ (u.port f).stage = (s.port f).stage ∧ (u.pipe j).wedged = true) := by
  cases hc : c j with
  | true =>
    rcases h.owned f j hc ho with ⟨hn, hst⟩ | ⟨hn, hst, hw⟩
    · obtain ⟨ho', hs'⟩ := g.kept_of_owner (hcd j hc) (.inl hn)
      exact .inl ⟨ho'.trans hn, hs'.trans hst⟩
    · obtain ⟨ho', hs'⟩ := g.kept_of_owner (hcd j hc) (.inr hn)
      exact .inr ⟨ho'.trans hn, hs'.trans hst, g.wedged j hw⟩
  | false =>
    obtain ⟨ho', hs'⟩ := h.owner_kept hc ho
    rw [← hs']
    exact g.owned f j (by simpa [hc] using hj) (ho'.trans ho)

theorem CutOff.trans_newlyWedged (j : PipeId) : (u.pipe j).wedged = (s.pipe j).wedged ∨
    ((c j || d j) = true ∧ ∃ f, (s.port f).owner = some j ∧ (u.port f).owner = some j) := by
  rcases g.newlyWedged j with hgw | ⟨hdj, f, hto, huo⟩
  · rcases h.newlyWedged j with hhw | ⟨hcj, f, hso, hto⟩
    · exact .inl (hgw.trans hhw)
    · exact .inr ⟨by simp [hcj], f, hso, (g.owner_kept (hcd j hcj) hto).1.trans hto⟩
  · have hcj : c j = false := by
      by_contra hn
      simp [hcd j (by simpa using hn)] at hdj
    exact .inr ⟨by simp [hdj], f, h.owner_of_owner hcj hto, huo⟩

/-- The pipe that owns the only port to clear is cut off first: the second cut clears none. -/
theorem CutOff.trans_onePort_left {f : FPort} {j : PipeId} (hc : c j = true) (ho : (s.port f).owner = some j)
    (hone : ∀ g i, (c i || d i) = true → (s.port g).owner = some i → g = f) :
    u.draws = (drawClearPolls s).2.draws ∧
    (if (drawClearPolls s).1 ≤ s.cfg.portClearMaxSpin then
      (u.port f).owner = none ∧ (u.port f).stage = [] ∧ (u.pipe j).wedged = (s.pipe j).wedged
     else (u.port f).owner = some j ∧ (u.port f).stage = (s.port f).stage ∧ (u.pipe j).wedged = true) := by
  obtain ⟨hdraws, hout⟩ := h.onePort f j hc ho fun g i hi hs => hone g i (by simp [hi]) hs
  have hnone : ∀ (g : FPort) (i : PipeId), d i = true → (t.port g).owner ≠ some i := fun g i hi ht => by
    have hci : c i = false := by
      by_contra hn
      simp [hcd i (by simpa using hn)] at hi
    have hs := h.owner_of_owner hci ht
    obtain rfl := hone g i (by simp [hi]) hs
    rw [Option.some.inj (ho.symm.trans hs), hci] at hc
    cases hc
  have hport := g.unowned f (hnone f)
  refine ⟨(g.noPort hnone).trans hdraws, ?_⟩
  rw [hport.1, hport.2, g.wedged_eq (hcd j hc)]
  exact hout

/-- The pipe that owns the only port to clear is cut off second: the first cut clears none. -/
theorem CutOff.trans_onePort_right (hcfg : t.cfg = s.cfg) {f : FPort} {j : PipeId} (hc : c j = false) (hd : d j = true)
    (ho : (s.port f).owner = some j) (hone : ∀ g i, (c i || d i) = true → (s.port g).owner = some i → g = f) :
    u.draws = (drawClearPolls s).2.draws ∧
    (if (drawClearPolls s).1 ≤ s.cfg.portClearMaxSpin then
      (u.port f).owner = none ∧ (u.port f).stage = [] ∧ (u.pipe j).wedged = (s.pipe j).wedged
     else (u.port f).owner = some j ∧ (u.port f).stage = (s.port f).stage ∧ (u.pipe j).wedged = true) := by
  have hdraws : t.draws = s.draws := h.noPort fun g i hi hs => by
    obtain rfl := hone g i (by simp [hi]) hs
    rw [Option.some.inj (ho.symm.trans hs)] at hc
    simp [hc] at hi
  obtain ⟨hto, hts⟩ := h.owner_kept hc ho
  have hout := g.onePort f j hd (hto.trans ho) fun g i hi ht =>
    hone g i (by simp [hi]) (h.owner_of_owner (by
      by_contra hn
      simp [hcd i (by simpa using hn)] at hi) ht)
  rwa [drawClearPolls_congr hdraws, drawClearPolls_draws_congr hdraws, hcfg, hts, h.wedged_eq hc] at hout

/-- Tearing off the pipes of `c` and then those of `d` tears off both. -/
theorem CutOff.trans (hcfg : t.cfg = s.cfg) : CutOff (fun j => c j || d j) s u where
  disarmed q hb hj := by
    cases hc : c (s.chan q).pipe with
    | true =>
      obtain ⟨hch, hdr⟩ := h.disarmed q hb hc
      obtain ⟨hch', hdr'⟩ := g.chans q (by simp [hch])
      exact ⟨hch'.trans hch, hdr'.trans hdr⟩
    | false =>
      have hch := (h.chans q (by simp [hc])).1
      rw [← hch] at hb hj ⊢
      exact g.disarmed q hb (by simpa [hch, hc] using hj)
  chans q hn := by
    obtain ⟨hch, hdr⟩ := h.chans q fun hq => hn ⟨hq.1, by simp [hq.2]⟩
    obtain ⟨hch', hdr'⟩ := g.chans q fun hq => hn ⟨hch ▸ hq.1, by simp [← hch, hq.2]⟩
    exact ⟨hch'.trans hch, hdr'.trans hdr⟩
  dreqC := g.dreqC.trans h.dreqC
  unowned f hn := by
    obtain ⟨ho, hs⟩ := h.unowned f fun j hj => hn j (by simp [hj])
    obtain ⟨ho', hs'⟩ := g.unowned f fun j hj => ho ▸ hn j (by simp [hj])
    exact ⟨ho'.trans ho, hs'.trans hs⟩
  owned f j hj ho := h.trans_owned g hcd hj ho
  wedged j hw := g.wedged j (h.wedged j hw)
  newlyWedged := h.trans_newlyWedged g hcd
  noPort hn := by
    have hto (f : FPort) := (h.unowned f fun j hj => hn f j (by simp [hj])).1
    exact (g.noPort fun f j hj => hto f ▸ hn f j (by simp [hj])).trans (h.noPort fun f j hj => hn f j (by simp [hj]))
  onePort f j hj ho hone := by
    cases hc : c j with
    | true => exact h.trans_onePort_left g hcd hc ho hone
    | false => exact h.trans_onePort_right g hcd hcfg hc (by simpa [hc] using hj) ho hone

end Trans

/-! ### Nothing, or one pipe -/

theorem CutOff.refl (s : State) (hc : ∀ j, c j = false) : CutOff c s s := by
  constructor <;> simp [hc]

/-- Ports, channels, draws and the mark `wedged` say it all. -/
theorem CutOff.congr (h : CutOff c s t) (hp : ∀ f, u.port f = t.port f) (hc : ∀ q, u.chan q = t.chan q)
    (hw : ∀ j, (u.pipe j).wedged = (t.pipe j).wedged) (hd : u.draws = t.draws) : CutOff c s u := by
  obtain ⟨h1, h2, h3, h4, h5, h6, h7, h8, h9⟩ := h
  constructor <;> simpa only [hp, hc, hw, hd]

/-- A forced termination tears its pipe off (R130). -/
theorem Terminated.cutOff {r : Result} (h : Terminated i r s t) : CutOff (fun j => decide (j = i)) s t where
  disarmed q hb hj := h.disarmed q hb (of_decide_eq_true hj)
  chans q hn := h.chans q fun hq => hn ⟨hq.1, decide_eq_true hq.2⟩
  dreqC := h.dreqC
  unowned f hn := h.unowned f (hn i (by simp))
  owned f j hj ho := by
    obtain rfl := of_decide_eq_true hj
    exact h.owned f ho
  wedged j hw := by
    by_cases hj : j = i
    · subst hj; exact h.wedged hw
    · rw [h.frame.pipes j hj]; exact hw
  newlyWedged j := by
    by_cases hj : j = i
    · subst hj; exact h.newlyWedged.imp_right fun hf => ⟨by simp, hf⟩
    · exact .inl (by rw [h.frame.pipes j hj])
  noPort hn := (h.noPort fun f => hn f i (by simp)).2
  onePort f j hj ho hone := by
    obtain rfl := of_decide_eq_true hj
    exact h.onePort f ho fun g hg => hone g j (by simp) hg

/-- Only the pipes that are busy are torn off. -/
theorem Ended.cutOff {r : Result} (h : Ended i r s t) : CutOff (fun j => decide (j = i) && s.busy j) s t := by
  unfold Ended at h
  split at h
  · next hb =>
    have heq : (fun j => decide (j = i) && s.busy j) = fun j => decide (j = i) := by
      funext j
      by_cases hj : j = i <;> simp [hj, hb]
    exact heq ▸ h.cutOff
  · next hb =>
    subst h
    exact .refl _ fun j => by by_cases hj : j = i <;> simp_all

end Sys2Proof.Machine
end

section
/-! SUPPORT. The detach handler (R175): what one turn of its loop does, that turns on different pipes add up, and what the
handler does in all. -/

namespace Sys2Proof.Machine

variable {a : BitVec 7} {j : PipeId} {k : PortId} {s t u v : State} {c d : PipeId → Bool} {r : Result}

/-! ### A pipe that may be idle -/

theorem slot_idle_of_not_busy (h : s.busy j = false) (e : Dir) : ((s.pipe j).slot e).state = .idle := by
  by_contra hn
  rw [busy_eq_true_iff.2 ⟨e, hn⟩] at h
  cases h

theorem endings_of_not_busy (h : s.busy j = false) : endings j r s = [] := by
  simp [endings, endingOf, slot_idle_of_not_busy h]

theorem endings_congr (hc : t.cfg = s.cfg) (hp : t.pipe j = s.pipe j) : endings j r t = endings j r s := by
  have hr : t.route j = s.route j := route_congr hc (by rw [hp]) (by rw [hp])
  simp only [endings, endingOf, hr, hp]

theorem Ended.callbacks (h : Ended j r s t) : t.cbLog = s.cbLog ++ endings j r s := by
  unfold Ended at h
  split at h
  · exact h.callbacks
  · next hb => rw [h, endings_of_not_busy (by simpa using hb), List.append_nil]

/-! ### One turn of the loop -/

/-- The device address `a` is that of pipe `j`, which exists and is configured (R175). -/
def State.boundTo (s : State) (a : BitVec 7) (j : PipeId) : Bool :=
  decide (j.val < s.cfg.numPipes) && (s.pipe j).configured && decide ((s.pipe j).devaddr = some a)

/-- What detaching its device makes of pipe `j`, wedged or not (R108, R130, R175). -/
def Pipe.detach (j : PipeId) (w : Bool) (q : Pipe) : Pipe :=
  { q with
    slotRx := if q.slotRx.state = .idle then q.slotRx else Slot.empty
    slotTx := if q.slotTx.state = .idle then q.slotTx else Slot.empty
    wedged := w
    trncnt := 0
    ignoreCnt := 0
    pid := .nak
    toggle := false
    rxFifo := none
    configured := decide (j = 0)
    devaddr := if j = 0 then some 0 else none }

theorem detachPipe_miss (h : s.boundTo a j = false) : detachPipe a s j = s :=
  if_neg fun ⟨hn, hc, ha⟩ => by simp [State.boundTo, hn, hc, ha] at h

theorem detachPipe_hit (h : s.boundTo a j = true) : detachPipe a s j =
    (releasePipe j s).modPipe j fun q => { q with devaddr := if j = 0 then some 0 else q.devaddr } := by
  simp only [State.boundTo, Bool.and_eq_true, decide_eq_true_eq, and_assoc] at h
  unfold detachPipe
  rw [if_pos h]
  by_cases hj : j = 0
  · subst hj; simp
  · simp only [if_neg hj]
    rw [modPipe_self _ _ _ rfl]

/-- The record of a pipe after its requests ended and it was released (R108, R130). -/
theorem released_record (hc : (s.pipe j).configured = true) (he : Ended j r s v) (hr : Released j v u) :
    { u.pipe j with devaddr := if j = 0 then some 0 else (u.pipe j).devaddr } =
      (s.pipe j).detach j (u.pipe j).wedged := by
  rw [hr.record]
  unfold Ended at he
  split at he
  · have hrx : (v.pipe j).slotRx = if (s.pipe j).slotRx.state = .idle then (s.pipe j).slotRx else Slot.empty :=
      he.emptied .rx
    have htx : (v.pipe j).slotTx = if (s.pipe j).slotTx.state = .idle then (s.pipe j).slotTx else Slot.empty :=
      he.emptied .tx
    conv_lhs => rw [he.record, hrx, htx]
    by_cases hj : j = 0
    · subst hj; simp [Pipe.detach, hc]
    · simp [Pipe.detach, hj]
  · next hb =>
    have hidle (e : Dir) := slot_idle_of_not_busy (by simpa using hb) e
    have hrx : (s.pipe j).slotRx.state = .idle := hidle .rx
    have htx : (s.pipe j).slotTx.state = .idle := hidle .tx
    subst he
    by_cases hj : j = 0
    · subst hj; simp [Pipe.detach, hrx, htx, hc]
    · simp [Pipe.detach, hj, hrx, htx]

/-- The fields that the loop of the detach handler leaves alone in host mode. -/
structure PipesOnly (s t : State) : Prop where
  cfg : t.cfg = s.cfg
  links : ∀ k, t.link k = s.link k
  sts : ∀ x : Source, x.pipe? = none → t.sts x = s.sts x
  enb : ∀ x : Source, x.pipe? = none → t.enb x = s.enb x
  ctrl : t.ctrl = s.ctrl
  mem : t.mem = s.mem
  txLog : t.txLog = s.txLog
  fifoLog : t.fifoLog = s.fifoLog
  evLog : t.evLog = s.evLog
  timeLog : t.timeLog = s.timeLog
  setupLog : t.setupLog = s.setupLog
  ret : t.ret = s.ret
  inbox : t.inbox = s.inbox

theorem PipesOnly.refl (s : State) : PipesOnly s s := by
  constructor <;> intros <;> rfl

theorem PipesOnly.trans (h : PipesOnly s t) (g : PipesOnly t u) : PipesOnly s u where
  cfg := g.cfg.trans h.cfg
  links k := (g.links k).trans (h.links k)
  sts x hx := (g.sts x hx).trans (h.sts x hx)
  enb x hx := (g.enb x hx).trans (h.enb x hx)
  ctrl := g.ctrl.trans h.ctrl
  mem := g.mem.trans h.mem
  txLog := g.txLog.trans h.txLog
  fifoLog := g.fifoLog.trans h.fifoLog
  evLog := g.evLog.trans h.evLog
  timeLog := g.timeLog.trans h.timeLog
  setupLog := g.setupLog.trans h.setupLog
  ret := g.ret.trans h.ret
  inbox := g.inbox.trans h.inbox

theorem PipesOnly.modPipe (h : PipesOnly s t) (f : Pipe → Pipe) : PipesOnly s (t.modPipe j f) :=
  h.trans (by constructor <;> simp)

theorem PipesOnly.of_onlyPipe (h : OnlyPipe j s t) (hctrl : t.ctrl = s.ctrl) (hmem : t.mem = s.mem)
    (hlogs : t.txLog = s.txLog ∧ t.fifoLog = s.fifoLog ∧ t.timeLog = s.timeLog) (hret : t.ret = s.ret) :
    PipesOnly s t where
  cfg := h.cfg
  links := h.links
  sts x hx := h.sts x (by simp [hx])
  enb x hx := h.enb x (by simp [hx])
  ctrl := hctrl
  mem := hmem
  txLog := hlogs.1
  fifoLog := hlogs.2.1
  evLog := h.evLog
  timeLog := hlogs.2.2
  setupLog := h.setupLog
  ret := hret
  inbox := h.inbox

/-- A data stage is a matter of peripheral mode (R198): no end of a request touches the control record of a host. -/
theorem Ended.pipesOnly (h : Ended j r s t) (hm : s.cfg.mode = .host) : PipesOnly s t := by
  unfold Ended at h
  split at h
  · exact .of_onlyPipe h.frame (by rw [h.ctrl]; simp [State.inDataStage, hm]) h.mem h.logs h.ret
  · rw [h]; exact .refl s

theorem Released.pipesOnly (h : Released j s t) : PipesOnly s t :=
  .of_onlyPipe h.frame h.data.ctrl h.data.mem ⟨h.data.txLog, h.data.fifoLog, h.data.timeLog⟩ h.ret

/-- The pipes of `c`, and no others, have been detached from their device (R175). -/
structure PipesDetached (c : PipeId → Bool) (s t : State) : Prop where
  record : ∀ j, c j = true → t.pipe j = (s.pipe j).detach j (t.pipe j).wedged
  off : ∀ j, c j = true → ∀ x : Source, x.pipe? = some j → t.enb x = false ∧ t.sts x = false
  pipe : ∀ j, c j = false → t.pipe j = s.pipe j
  sources : ∀ j, c j = false → ∀ x : Source, x.pipe? = some j → t.enb x = s.enb x ∧ t.sts x = s.sts x
  cut : CutOff (fun j => c j && s.busy j) s t
  rest : PipesOnly s t

theorem PipesDetached.refl (s : State) (hc : ∀ j, c j = false) : PipesDetached c s s where
  record j hj := by simp [hc] at hj
  off j hj := by simp [hc] at hj
  pipe _ _ := rfl
  sources _ _ _ _ := ⟨rfl, rfl⟩
  cut := .refl s (by simp [hc])
  rest := .refl s

/-- Detaching other pipes afterwards adds up. -/
theorem PipesDetached.trans (h : PipesDetached c s t) (g : PipesDetached d t u) (hcd : ∀ j, c j = true → d j = false) :
    PipesDetached (fun j => c j || d j) s u where
  record j hj := by
    cases hc : c j with
    | true => rw [g.pipe j (hcd j hc)]; exact h.record j hc
    | false => rw [← h.pipe j hc]; exact g.record j (by simpa [hc] using hj)
  off j hj x hx := by
    cases hc : c j with
    | true =>
      obtain ⟨he, hs⟩ := g.sources j (hcd j hc) x hx
      obtain ⟨he', hs'⟩ := h.off j hc x hx
      exact ⟨he.trans he', hs.trans hs'⟩
    | false => exact g.off j (by simpa [hc] using hj) x hx
  pipe j hj := by
    obtain ⟨hc, hd⟩ := Bool.or_eq_false_iff.1 hj
    exact (g.pipe j hd).trans (h.pipe j hc)
  sources j hj x hx := by
    obtain ⟨hc, hd⟩ := Bool.or_eq_false_iff.1 hj
    obtain ⟨he, hs⟩ := g.sources j hd x hx
    obtain ⟨he', hs'⟩ := h.sources j hc x hx
    exact ⟨he.trans he', hs.trans hs'⟩
  cut := by
    have hbusy (j : PipeId) (hc : c j = false) : t.busy j = s.busy j := busy_congr fun e => by rw [h.pipe j hc]
    have heq : (fun j => (c j || d j) && s.busy j) = fun j => (c j && s.busy j) || (d j && t.busy j) := by
      funext j
      cases hc : c j with
      | true => simp [hcd j hc]
      | false => simp [hbusy j hc]
    rw [heq]
    exact h.cut.trans g.cut (fun j hj => by simp [hcd j (Bool.and_eq_true_iff.1 hj).1]) h.rest.cfg
  rest := h.rest.trans g.rest

/-- One turn of the loop on a pipe of the device. -/
theorem detachPipe_hit_detached (hm : s.cfg.mode = .host) (h : s.boundTo a j = true) :
    PipesDetached (fun i => decide (i = j)) s (detachPipe a s j) := by
  have hend : Ended j .stopped s (terminateIfBusy j .stopped s) := terminateIfBusy_ended .stopped (by decide)
  have hrel : Released j (terminateIfBusy j .stopped s) (releasePipe j s) := releasePipe_released
  have hconf : (s.pipe j).configured = true := by simp_all [State.boundTo]
  have hframe : OnlyPipe j s (releasePipe j s) := by simp [OnlyPipe.refl]
  rw [detachPipe_hit h]
  constructor
  case record =>
    intro i hi
    obtain rfl := of_decide_eq_true hi
    simpa using released_record hconf hend hrel
  case off =>
    intro i hi x hx
    obtain rfl := of_decide_eq_true hi
    simp [hrel.enb x hx, hrel.sts x hx]
  case pipe =>
    intro i hi
    have hij : i ≠ j := by simpa using hi
    simp [hij.symm, hframe.pipes i hij]
  case sources =>
    intro i hi x hx
    have hij : x.pipe? ≠ some j := by simpa [hx] using hi
    simp [hframe.enb x hij, hframe.sts x hij]
  case cut =>
    refine hend.cutOff.congr (by simp [hrel.data.ports]) (by simp [hrel.data.chans]) (fun i => ?_)
      (by simp [hrel.data.draws])
    by_cases hij : i = j
    · subst hij; simp [hrel.record]
    · simp [Ne.symm hij, hrel.frame.pipes i hij]
  case rest => exact ((hend.pipesOnly hm).trans hrel.pipesOnly).modPipe _

/-- One turn of the loop on any pipe. -/
theorem detachPipe_detached (hm : s.cfg.mode = .host) (j : PipeId) :
    PipesDetached (fun i => decide (i = j) && s.boundTo a i) s (detachPipe a s j) := by
  cases h : s.boundTo a j with
  | true =>
    have heq : (fun i => decide (i = j) && s.boundTo a i) = fun i => decide (i = j) := by
      funext i
      by_cases hi : i = j <;> simp [hi, h]
    exact heq ▸ detachPipe_hit_detached hm h
  | false =>
    rw [detachPipe_miss h]
    exact .refl s fun i => by by_cases hi : i = j <;> simp [hi, h]

/-- The callbacks of a detach for pipe `j` (R175). -/
def detachEndings (a : BitVec 7) (s : State) (j : PipeId) : List CbEntry :=
  if s.boundTo a j = true then endings j .stopped s else []

theorem detachPipe_cbLog (j : PipeId) : (detachPipe a s j).cbLog = s.cbLog ++ detachEndings a s j := by
  have hend : Ended j .stopped s (terminateIfBusy j .stopped s) := terminateIfBusy_ended .stopped (by decide)
  have hrel : Released j (terminateIfBusy j .stopped s) (releasePipe j s) := releasePipe_released
  unfold detachEndings
  split
  · next h => rw [detachPipe_hit h, modPipe_cbLog, hrel.data.cbLog, hend.callbacks]
  · next h => rw [detachPipe_miss (by simpa using h), List.append_nil]

/-! ### The whole loop -/

theorem boundTo_congr (hc : t.cfg = s.cfg) (hp : t.pipe j = s.pipe j) : t.boundTo a j = s.boundTo a j := by
  simp only [State.boundTo, hc, hp]

/-- A turn on another pipe does not matter to the turn on pipe `j`. -/
theorem PipesDetached.detachEndings_eq (h : PipesDetached c s t) (hj : c j = false) :
    detachEndings a t j = detachEndings a s j := by
  simp only [detachEndings, boundTo_congr h.rest.cfg (h.pipe j hj), endings_congr h.rest.cfg (h.pipe j hj)]

theorem foldl_detachPipe_detached (js : List PipeId) (hjs : js.Nodup) (hm : s.cfg.mode = .host) :
    PipesDetached (fun i => decide (i ∈ js) && s.boundTo a i) s (js.foldl (detachPipe a) s) ∧
    (js.foldl (detachPipe a) s).cbLog = s.cbLog ++ js.flatMap (detachEndings a s) := by
  induction js generalizing s with
  | nil => exact ⟨.refl s (by simp), by simp⟩
  | cons j js ih =>
    obtain ⟨hj, hnd⟩ := List.nodup_cons.1 hjs
    have hturn : PipesDetached (fun i => decide (i = j) && s.boundTo a i) s (detachPipe a s j) :=
      detachPipe_detached hm j
    have hne {i : PipeId} (hi : i ∈ js) : (decide (i = j) && s.boundTo a i) = false := by
      have : i ≠ j := by rintro rfl; exact hj hi
      simp [this]
    obtain ⟨hloop, hlog⟩ := ih hnd (hturn.rest.cfg ▸ hm)
    constructor
    · have heq : (fun i => decide (i ∈ j :: js) && s.boundTo a i) = fun i =>
          (decide (i = j) && s.boundTo a i) || (decide (i ∈ js) && (detachPipe a s j).boundTo a i) := by
        funext i
        by_cases hi : i ∈ js
        · simp [hi, boundTo_congr (a := a) hturn.rest.cfg (hturn.pipe i (hne hi))]
        · simp [hi]
      rw [heq]
      refine hturn.trans hloop fun i hi => ?_
      have hij : i = j := of_decide_eq_true (Bool.and_eq_true_iff.1 hi).1
      simp [hij, hj]
    · rw [List.foldl_cons, hlog, detachPipe_cbLog, List.flatMap_cons, List.append_assoc,
        List.flatMap_congr fun i hi => hturn.detachEndings_eq (hne hi)]

/-! ### The handler -/

theorem mem_allPipes (j : PipeId) : j ∈ allPipes := by
  fin_cases j <;> decide

/-- The pipes of the device on port `k` after its detach (R175). -/
theorem detachLoop (hm : s.cfg.mode = .host) :
    PipesDetached (s.boundTo a) s (allPipes.foldl (detachPipe a) s) ∧
    (allPipes.foldl (detachPipe a) s).cbLog = s.cbLog ++ allPipes.flatMap (detachEndings a s) := by
  simpa [mem_allPipes] using foldl_detachPipe_detached (a := a) allPipes (by decide) hm

/-- Settles O48: the loop detaches the device's pipes and leaves the links alone, and then the port goes back to
`Detached`, which no pipe, port or channel notices. -/
theorem detach : Obligations.Detach := by
  intro b k s hm hk
  have hx : exec (.hDetach b) s = .next (handleDetach k s) := linkHandler_host hm hk _
  refine ⟨fun h => by rw [hx, handleDetach_gone h], fun hd hdet => ?_⟩
  rw [handleDetach_attached (by simp [hd, hdet])] at hx
  obtain ⟨hpipes, hcb⟩ := detachLoop (a := (s.link k).dev.getD 0) hm
  generalize allPipes.foldl (detachPipe ((s.link k).dev.getD 0)) s = u at hx hpipes hcb
  obtain ⟨hlink, hgated, hframe⟩ := detachPort_relinked (k := k) (s := u)
  have henb {x : Source} {i : PipeId} (hx : x.pipe? = some i) := hframe.enb x
    (by simp [port?_eq_none_of_pipe? (x := x) (by simp [hx])])
  refine ⟨_, hx, fun j hj => ⟨?_, fun x hxj => ?_⟩, fun j hj => ⟨?_, fun x hxj => ?_⟩, ?_, ?_, ?_, ?_, hgated, ?_, ?_⟩
  · rw [hframe.pipes]; exact hpipes.record j hj
  · rw [henb hxj, hframe.sts]; exact hpipes.off j hj x hxj
  · rw [hframe.pipes]; exact hpipes.pipe j hj
  · rw [henb hxj, hframe.sts]; exact hpipes.sources j hj x hxj
  · exact hpipes.cut.congr hframe.ports hframe.chans (fun j => by rw [hframe.pipes]) (by simp)
  · rw [hframe.cbLog]; exact hcb
  · rw [hlink, hpipes.rest.links]; rfl
  · exact fun j hj => (hframe.links j hj).trans (hpipes.rest.links j)
  · exact fun x hxn =>
      ⟨(hframe.sts x).trans (hpipes.rest.sts x hxn), fun hxk => (hframe.enb x hxk).trans (hpipes.rest.enb x hxn)⟩
  · obtain ⟨hcfg, -, -, -, hctrl, hmem, htx, hfifo, hev, htime, hsetup, hret, hinbox⟩ := hpipes.rest
    simp [hcfg, hctrl, hmem, htx, hfifo, hev, htime, hsetup, hret, hinbox]

end Sys2Proof.Machine
end

section
/-! SUPPORT. The operations of a peripheral's control request (R191 to R197), each whole: three end what is outstanding on
pipe 0, and each then writes the pid of pipe 0 and the control record only. -/

namespace Sys2Proof.Machine

variable {s t v : State} {i : PipeId} {r : Result}

/-! ### The mode -/

theorem ctrlCommand_peripheral (hm : s.cfg.mode = .peripheral) (t : State) : ctrlCommand s t = .next t := by
  simp [ctrlCommand, hm]

theorem ctrlHandler_peripheral (hm : s.cfg.mode = .peripheral) (t : State) : ctrlHandler s t = .next t := by
  simp [ctrlHandler, hm]

/-! ### The pid of pipe 0 and the control record -/

/-- Only the pid of pipe 0 and the control record change. -/
structure PidCtrl (x : Pid) (c : Ctrl) (s t : State) : Prop where
  pipe : t.pipe 0 = { s.pipe 0 with pid := x }
  others : ∀ j, j ≠ 0 → t.pipe j = s.pipe j
  ctrl : t.ctrl = c
  rest : { t with pipes := s.pipes, ctrl := s.ctrl } = s

theorem modPid_modCtrl (x : Pid) (f : Ctrl → Ctrl) :
    PidCtrl x (f s.ctrl) s ((s.modPipe 0 fun q => { q with pid := x }).modCtrl f) where
  pipe := by simp
  others j hj := by simp [hj.symm]
  ctrl := rfl
  rest := rfl

/-- The end of a request leaves the setup packet and the callback identifier of the control record alone (R130, R198). -/
theorem Ended.ctrl_kept (h : Ended i r s v) : v.ctrl.setup = s.ctrl.setup ∧ v.ctrl.dataCb = s.ctrl.dataCb := by
  unfold Ended at h
  split at h
  · rw [h.ctrl]
    split <;> exact ⟨rfl, rfl⟩
  · rw [h]
    exact ⟨rfl, rfl⟩

theorem stallControl_ended (r : Result) (hr : r ≠ .exact ∧ r ≠ .shortPacket := by decide) :
    ∃ v, Ended 0 r s v ∧ PidCtrl .stall { s.ctrl with statusEn := false, state := .cStalled } v (stallControl r s) := by
  have he : Ended 0 r s (terminateIfBusy 0 r s) := terminateIfBusy_ended r hr
  obtain ⟨hsetup, hcb⟩ := he.ctrl_kept
  obtain ⟨hpipe, hothers, hctrl, hrest⟩ := modPid_modCtrl (s := terminateIfBusy 0 r s) .stall
    fun c => { c with statusEn := false, state := .cStalled }
  exact ⟨_, he, hpipe, hothers, hctrl.trans (by simp only [hsetup, hcb]), hrest⟩

/-! ### When a request may be acknowledged, or its data phase submitted (R192, R193, R195) -/

theorem ctrlAck_illegal (h : s.ctrl.state ≠ .cSetupReceived ∨ s.ctrl.wlen ≠ 0) :
    ctrlAck s = s.returns .invalidState := if_pos h

theorem ctrlAck_legal (hs : s.ctrl.state = .cSetupReceived) (hw : s.ctrl.wlen = 0) : ctrlAck s =
    ((s.modPipe 0 fun q => { q with pid := .buf }).modCtrl fun c =>
      { c with statusEn := true, state := .cStatusStage }).returns .ok :=
  if_neg (not_or.2 ⟨not_not.2 hs, not_not.2 hw⟩)

theorem ctrlData_illegal {b l c : Word} (h : s.ctrl.state ≠ .cSetupReceived ∨ s.ctrl.wlen = 0) :
    ctrlData b l c s = s.returns .invalidState := if_pos h

theorem ctrlData_legal {b l c : Word} (hs : s.ctrl.state = .cSetupReceived) (hw : s.ctrl.wlen ≠ 0) :
    ctrlData b l c s = ctrlDataResult c (startCommon 0 s.ctrl.dataDir b l c s) :=
  if_neg (not_or.2 ⟨not_not.2 hs, hw⟩)

theorem ctrlDataResult_ok {c : Word} (h : t.ret = some .ok) :
    ctrlDataResult c t = { t with ctrl := { t.ctrl with dataCb := c, state := .cDataStage } } :=
  if_neg (not_not.2 h)

theorem ctrlDataResult_failed {c : Word} (h : t.ret ≠ some .ok) : ctrlDataResult c t = t := if_pos h

theorem handleStsdone_statusStage (h : s.ctrl.state = .cStatusStage) : handleStsdone s =
    (s.modPipe 0 fun q => { q with pid := .nak }).modCtrl fun c => { c with state := .cIdle, statusEn := false } :=
  if_pos h

theorem handleStsdone_elsewhere (h : s.ctrl.state ≠ .cStatusStage) : handleStsdone s = s := if_neg h

/-! ### The obligations -/

/-- Settles O49: the end of what is outstanding keeps the packet, which is then handed over. -/
theorem setupReceived : Obligations.SetupReceived := by
  intro s hm
  have he : Ended 0 .stopped s (terminateIfBusy 0 .stopped s) := terminateIfBusy_ended .stopped (by decide)
  have hframe : OnlyPipe 0 s (terminateIfBusy 0 .stopped s) := (onlyPipe_terminateIfBusy .stopped).2 (.refl 0 s)
  obtain ⟨hpacket, -⟩ := he.ctrl_kept
  obtain ⟨hpipe, hothers, -, -⟩ := modPid_modCtrl (s := terminateIfBusy 0 .stopped s) .nak id
  refine ⟨_, handleSetup s, he, ctrlHandler_peripheral hm _, hpipe, hothers, ?_, ?_, rfl⟩
  · simp [handleSetup, hpacket]
  · simp [handleSetup, hpacket, hframe.setupLog]

/-- Settles O50: the command is legal for a zero-data request just received, and writes the pid and the control record. -/
theorem ctrlAckCommand : Obligations.CtrlAck := by
  intro s hm
  have hx : exec .ctrlAck s = .next (ctrlAck s) := ctrlCommand_peripheral hm _
  refine ⟨fun h => by rw [hx, ctrlAck_illegal (s := s) h], fun hst hlen => ?_⟩
  rw [ctrlAck_legal hst hlen] at hx
  obtain ⟨hpipe, hothers, hctrl, hrest⟩ :=
    modPid_modCtrl (s := s) .buf fun c => { c with statusEn := true, state := .cStatusStage }
  exact ⟨_, hx, rfl, hctrl, hpipe, hothers, hrest⟩

/-- Settles O51: the two operations are one stall with different result codes. -/
theorem ctrlStallAndSeqErr : Obligations.CtrlStallAndSeqErr := by
  intro s hm
  constructor
  · obtain ⟨v, he, hpipe, hothers, hctrl, hrest⟩ := stallControl_ended (s := s) .stopped
    exact ⟨v, _, he, ctrlCommand_peripheral hm _, hpipe, hothers, hctrl, hrest⟩
  · obtain ⟨v, he, hpipe, hothers, hctrl, hrest⟩ := stallControl_ended (s := s) .stall
    exact ⟨v, _, he, ctrlHandler_peripheral hm _, hpipe, hothers, hctrl, hrest⟩

/-- Settles O52: the command submits the data phase on pipe 0, and what it adds depends on the answer. -/
theorem ctrlDataCommand : Obligations.CtrlData := by
  intro b l c s hm hn
  have hx : exec (.ctrlData b l c) s = .next (ctrlData b l c s) := ctrlCommand_peripheral hm _
  refine ⟨fun h => by rw [hx, ctrlData_illegal (s := s) h], fun hst hlen => ?_⟩
  rw [ctrlData_legal hst hlen] at hx
  have h0 : s.pipeOf? (0 : BitVec 8).toNat = some 0 := by simp [State.pipeOf?, hn]
  refine ⟨_, exec_request h0 s.ctrl.dataDir b l c, fun hr => ?_, fun hr => ?_, fun hc hw hf hi hcan => ?_⟩
  · rw [hx, ctrlDataResult_failed hr]
  · rw [hx, ctrlDataResult_ok hr]
  · have hadm : s.Admits 0 s.ctrl.dataDir b l := ⟨hc, hw, fun h => absurd rfl h, hf⟩
    rw [hadm.startCommon_accepted hi hcan, returns_ret]

/-- Settles O53: the handler acts in `CStatusStage` only. -/
theorem statusStageDone : Obligations.StatusStageDone := by
  intro s hm
  have hx : exec .hStsdone s = .next (handleStsdone s) := ctrlHandler_peripheral hm _
  refine ⟨fun h => by rw [hx, handleStsdone_elsewhere h], fun h => ?_⟩
  rw [handleStsdone_statusStage h] at hx
  obtain ⟨hpipe, hothers, hctrl, hrest⟩ :=
    modPid_modCtrl (s := s) .nak fun c => { c with state := .cIdle, statusEn := false }
  exact ⟨_, hx, hctrl, hpipe, hothers, hrest⟩

end Sys2Proof.Machine
end

section
/-! SUPPORT. The transition table of the control state (R199): an operation that does not write the control state itself
moves it only by the end of a data stage (R198), and the callback of that end says where to. -/

namespace Sys2Proof.Machine

variable {s t u : State} {j : PipeId}

/-! ### A data stage ends as a callback reports it -/

/-- The control state a data stage ends in (R198). -/
def stageEnd (r : Result) : CtrlState := if r = .exact ∨ r = .shortPacket then .cStatusStage else .cStalled

/-- Callbacks may have been added, and the control state is as it was unless a data stage was under way and ended as one
of them, for pipe 0, reports (R198). -/
def StageReported (s t : State) : Prop :=
  ∃ l, t.cbLog = s.cbLog ++ l ∧ (t.ctrl.state = s.ctrl.state ∨
    (s.ctrl.state = .cDataStage ∧ ∃ e ∈ l, e.pipe = 0 ∧ t.ctrl.state = stageEnd e.result))

theorem StageReported.refl (s : State) : StageReported s s := ⟨[], by simp, .inl rfl⟩

theorem StageReported.trans (h : StageReported s t) (g : StageReported t u) : StageReported s u := by
  obtain ⟨l, hl, hstage⟩ := h
  obtain ⟨m, hm, gstage⟩ := g
  refine ⟨l ++ m, by rw [hm, hl, List.append_assoc], ?_⟩
  obtain gsame | ⟨gdata, e, he, hpipe, hend⟩ := gstage
  · obtain hsame | ⟨hdata, e, he, hpipe, hend⟩ := hstage
    · exact .inl (gsame.trans hsame)
    · exact .inr ⟨hdata, e, List.mem_append_left m he, hpipe, gsame.trans hend⟩
  · have hdata : s.ctrl.state = .cDataStage := by
      obtain hsame | ⟨hdata, -⟩ := hstage
      · exact hsame.symm.trans gdata
      · exact hdata
    exact .inr ⟨hdata, e, List.mem_append_right l he, hpipe, hend⟩

/-- No callback is added and the control state stays. -/
protected theorem StageReported.same (h : StageReported s t) (hl : u.cbLog = t.cbLog := by simp)
    (hc : u.ctrl.state = t.ctrl.state := by simp) : StageReported s u :=
  h.trans ⟨[], by simp [hl], .inl hc⟩

protected theorem StageReported.returns (h : StageReported s t) (r : Status) : StageReported s (t.returns r) :=
  h.same rfl rfl

protected theorem StageReported.link (h : StageReported s t) {k : PortId} (hk : OnlyLink k t u) : StageReported s u :=
  h.same hk.cbLog (by rw [hk.ctrl])

/-! ### The shared operations -/

theorem inDataStage_iff : s.inDataStage j = true ↔ j = 0 ∧ s.cfg.mode = .peripheral ∧ s.ctrl.state = .cDataStage := by
  simp [State.inDataStage, and_assoc]

/-- A busy pipe's forced termination reports its result code (R130). -/
theorem exists_mem_endings (h : s.busy j = true) (r : Result) : ∃ e ∈ endings j r s, e.pipe = j ∧ e.result = r := by
  obtain ⟨d, hd⟩ := busy_eq_true_iff.1 h
  obtain ⟨e, he, hpipe, hres⟩ : ∃ e ∈ endingOf j d r s, e.pipe = j ∧ e.result = r := by simp [endingOf, hd]
  have hroute : d = s.route j ∨ d = (s.route j).other := by cases d <;> cases s.route j <;> simp [Dir.other]
  obtain rfl | rfl := hroute
  · exact ⟨e, List.mem_append_left _ he, hpipe, hres⟩
  · exact ⟨e, List.mem_append_right _ he, hpipe, hres⟩

protected theorem StageReported.complete (h : StageReported s t) (j : PipeId) (d : Dir) (r : Result) :
    StageReported s (complete j d r t) := by
  have hd : Completed j d r t (complete j d r t) := complete_completed d r
  refine h.trans ⟨_, hd.callbacks, ?_⟩
  rw [hd.ctrl]
  split
  · next hs =>
    obtain ⟨hj, -, hstate⟩ := inDataStage_iff.1 hs
    refine .inr ⟨hstate, _, List.mem_singleton_self _, hj, ?_⟩
    unfold stageEnd
    split <;> rfl
  · exact .inl rfl

protected theorem StageReported.terminateAll (h : StageReported s t) (j : PipeId) (r : Result)
    (hr : r ≠ .exact ∧ r ≠ .shortPacket := by decide) : StageReported s (terminateAll j r t) := by
  have hd : Terminated j r t (terminateAll j r t) := terminateAll_terminated r hr
  refine h.trans ⟨_, hd.callbacks, ?_⟩
  rw [hd.ctrl]
  split
  · next hs =>
    obtain ⟨hstage, hbusy⟩ := Bool.and_eq_true_iff.1 hs
    obtain ⟨hj, -, hstate⟩ := inDataStage_iff.1 hstage
    obtain ⟨e, he, hpipe, hres⟩ := exists_mem_endings hbusy r
    refine .inr ⟨hstate, e, he, hpipe.trans hj, ?_⟩
    rw [hres, stageEnd, if_neg (not_or.2 hr)]
  · exact .inl rfl

protected theorem StageReported.terminateIfBusy (h : StageReported s t) (j : PipeId) (r : Result)
    (hr : r ≠ .exact ∧ r ≠ .shortPacket := by decide) : StageReported s (terminateIfBusy j r t) := by
  unfold terminateIfBusy
  split
  · exact h.terminateAll j r hr
  · exact h

protected theorem StageReported.releasePipe (h : StageReported s t) (j : PipeId) :
    StageReported s (releasePipe j t) :=
  (h.terminateIfBusy j .stopped).same releasePipe_released.data.cbLog (by rw [releasePipe_released.data.ctrl])

protected theorem StageReported.acquirePort (h : StageReported s t) (j : PipeId) (f : FPort) :
    StageReported s (acquirePort j f t).2 := by
  have hcb : (acquirePort j f t).2.cbLog = t.cbLog := by
    by_cases hc : t.CanAcquire j f
    · exact (acquirePort_acquired f hc).cbLog
    · exact congrArg (·.cbLog) (acquirePort_failed f hc).2.rest
  exact h.same hcb (by rw [((SameCtrl.refl t).acquirePort f).ctrl])

/-! ### The CPU path -/

protected theorem StageReported.commit (h : StageReported s t) (f : FPort) (j : PipeId) (b : Bool) :
    StageReported s (commit f j b t) :=
  h.same (by simp [commit]) (by simp [commit])

protected theorem StageReported.writeOwned (h : StageReported s t) (j : PipeId) : StageReported s (writeOwned j t) := by
  have hchunk (n : Nat) (bs : List Byte) : StageReported s (advanceSlot j .tx n (fifoWrite .c bs t)) :=
    h.same (by simp [advanceSlot, fifoWrite, logFifo]) (by simp [advanceSlot, fifoWrite, logFifo])
  simp only [writeOwned]
  split
  · exact (hchunk _ _).commit .c j false
  · split
    · exact (((hchunk _ _).commit .c j false).commit .c j true).complete j .tx .exact
    · exact ((hchunk _ _).commit .c j true).complete j .tx .exact

protected theorem StageReported.writeChunk (h : StageReported s t) (j : PipeId) : StageReported s (writeChunk j t) := by
  simp only [writeChunk]
  split
  · exact (h.acquirePort j .c).writeOwned j
  · exact (h.acquirePort j .c).terminateAll j .portWedged

protected theorem StageReported.readOwned (h : StageReported s t) (j : PipeId) (pkt : List Byte) :
    StageReported s (readOwned j pkt t) := by
  have hread (n : Nat) (m : Memory) : StageReported s (advanceSlot j .rx n ((fifoRead .c j n t).2.setMem m)) :=
    h.same (by simp [advanceSlot, fifoRead, logFifo]) (by simp [advanceSlot, fifoRead, logFifo])
  simp only [readOwned]
  split
  · exact (hread _ _).complete j .rx .overrun
  · split
    · exact (hread _ _).complete j .rx .exact
    · split
      · exact (hread _ _).complete j .rx .shortPacket
      · exact hread _ _

protected theorem StageReported.readChunk (h : StageReported s t) (j : PipeId) : StageReported s (readChunk j t) := by
  simp only [readChunk]
  split
  · exact h
  · split
    · exact (h.acquirePort j .c).readOwned j _
    · exact (h.acquirePort j .c).terminateAll j .portWedged

protected theorem StageReported.pushFirst (h : StageReported s t) (j : PipeId) (d : Dir) :
    StageReported s (pushFirst j d t) := by
  unfold pushFirst
  split
  · exact h.writeChunk j
  · exact h

protected theorem StageReported.startCommon (h : StageReported s t) (j : PipeId) (d : Dir) (b l c : Word) :
    StageReported s (startCommon j d b l c t) := by
  have harm (v : State) (hv : StageReported s v) : StageReported s (armCpu j d b l c v) :=
    hv.same (by simp [armCpu]) (by simp [armCpu])
  simp only [startCommon]
  iterate 5 (split <;> [exact h.returns _; skip])
  split
  · exact ((harm _ (h.acquirePort j .c)).pushFirst j d).returns .ok
  · exact ((h.acquirePort j .c).terminateIfBusy j .portWedged).returns .portWedgedNow

protected theorem StageReported.handleBrdy (h : StageReported s t) (j : PipeId) : StageReported s (handleBrdy j t) := by
  have hcount : StageReported s (t.modPipe j fun q => { q with ignoreCnt := 0 }) := h.same
  simp only [handleBrdy]
  split
  · exact h
  · split
    · exact hcount.writeChunk j
    · exact hcount.readChunk j

protected theorem StageReported.handleNrdy (h : StageReported s t) (j : PipeId) : StageReported s (handleNrdy j t) := by
  have hcount : StageReported s (t.modPipe j fun q => { q with ignoreCnt := q.ignoreCnt + 1 }) := h.same
  simp only [handleNrdy]
  split
  · exact h
  · split
    · exact h.terminateAll j .stall
    · split
      · exact h.terminateAll j .notReadyExceeded
      · split
        · exact hcount.terminateAll j .notReadyExceeded
        · exact hcount.same (by simp [retryNotReady]) (by simp [retryNotReady])

/-! ### The DMA path -/

protected theorem StageReported.dmaStart (h : StageReported s t) (j : PipeId) (b l : Word) (p : DPort) (c : Word) :
    StageReported s (dmaStart j b l p c t) := by
  have harm (d : Dir) (v : State) (hv : StageReported s v) : StageReported s (armDma j d b l c p v) :=
    hv.same (by simp [armDma]) (by simp [armDma])
  simp only [dmaStart]
  iterate 4 (split <;> [exact h.returns _; skip])
  split
  · exact h.startCommon j _ b l c
  · split
    · exact h.returns .busy
    · split
      · exact (harm _ _ (h.acquirePort j p.fport)).returns .ok
      · exact (h.acquirePort j p.fport).returns .portWedgedNow

protected theorem StageReported.dmaRemainder (h : StageReported s t) (j : PipeId) (d : Dir) :
    StageReported s (dmaRemainder j d t) := by
  simp only [dmaRemainder]
  split
  · exact (StageReported.same (h.acquirePort j .c)).pushFirst j d
  · exact (h.acquirePort j .c).terminateAll j .portWedged

protected theorem StageReported.dmaEnd (h : StageReported s t) (p : DPort) (j : PipeId) (d : Dir) :
    StageReported s (dmaEnd p j d t) := by
  cases d with
  | rx => exact h.complete j .rx .exact
  | tx =>
    simp only [dmaEnd]
    split
    · exact ((h.acquirePort j p.fport).commit p.fport j true).complete j .tx .exact
    · exact (h.acquirePort j p.fport).terminateAll j .portWedged

protected theorem StageReported.dmaComplete (h : StageReported s t) (p : DPort) (c : Chan) :
    StageReported s (dmaComplete p c t) := by
  have haccount : StageReported s (dmaAccount p t) :=
    h.same (by simp [dmaAccount, advanceSlot]) (by simp [dmaAccount, advanceSlot])
  simp only [dmaComplete]
  split
  · exact haccount.complete c.pipe .rx .shortPacket
  · split
    · exact haccount.dmaRemainder c.pipe c.dirn
    · exact haccount.dmaEnd p c.pipe c.dirn

theorem dmaIrq_stageReported (p : DPort) : NextMeets (StageReported s) (dmaIrq p s) := by
  have hdone : StageReported s (s.modChan p fun x => { x with done := false }) := (StageReported.refl s).same
  simp only [dmaIrq]
  split
  · exact nextMeets_next.2 hdone
  · split
    · exact nextMeets_fault _
    · exact nextMeets_next.2 (hdone.dmaComplete p _)

theorem moveBlock_stageReported (p : DPort) : StageReported s (moveBlock p s) := by
  simp only [moveBlock]
  split
  · exact (StageReported.refl s).same
  · exact (StageReported.refl s).same

/-! ### Operations -/

/-- In host mode there is no data stage (R198), so the detach handler leaves the control record alone. -/
theorem handleDetach_stageReported (hm : s.cfg.mode = .host) (k : PortId) : StageReported s (handleDetach k s) := by
  unfold handleDetach
  split
  · exact .refl s
  · obtain ⟨hpipes, hcb⟩ := detachLoop (a := (s.link k).dev.getD 0) hm
    have hloop : StageReported s (allPipes.foldl (detachPipe ((s.link k).dev.getD 0)) s) :=
      ⟨_, hcb, .inl (by rw [hpipes.rest.ctrl])⟩
    exact hloop.same

theorem StageReported.hwStep (x : Source) (hl : t.cbLog = s.cbLog := by simp)
    (hc : t.ctrl.state = s.ctrl.state := by simp) : StageReported s (hwToggles (t.setSts x true)) :=
  (StageReported.refl s).same (by simp [hl]) (by simp [hc])

/-- The operations that write the control state themselves (R191, R193 to R197), and the dispatcher, which calls some. -/
def writesStage : Instr → Bool
  | .ctrlAck => true
  | .ctrlStall => true
  | .ctrlData _ _ _ => true
  | .usbIrq => true
  | .hSetup => true
  | .hStsdone => true
  | .hSeqerr => true
  | _ => false

theorem execConfigurePipe_stageReported (idx : BitVec 8) (ty : TType) (d : UsbDir) (m : BitVec 11)
    (a : Option (BitVec 7)) : NextMeets (StageReported s) (execConfigurePipe idx ty d m a s) := by
  have h : StageReported s s := .refl s
  unfold execConfigurePipe
  split <;> [skip; split <;> [skip; split]] <;> refine nextMeets_next.2 ?_
  · exact h.returns _
  · exact h.returns _
  · exact h.returns _
  · exact h.same

theorem execReleasePipe_stageReported (idx : BitVec 8) : NextMeets (StageReported s) (execReleasePipe idx s) := by
  unfold execReleasePipe
  split <;> refine nextMeets_next.2 ?_
  · exact (StageReported.refl s).returns _
  · exact ((StageReported.refl s).releasePipe _).returns .ok

theorem execAcquirePort_stageReported (idx : BitVec 8) (f : FPort) :
    NextMeets (StageReported s) (execAcquirePort idx f s) := by
  have h : StageReported s s := .refl s
  unfold execAcquirePort acquireResult
  split <;> [skip; split <;> [skip; split <;> [skip; split]]] <;> refine nextMeets_next.2 ?_
  · exact h.returns _
  · exact h.returns _
  · exact h.returns _
  · exact (h.acquirePort _ f).returns .ok
  · exact ((h.acquirePort _ f).terminateIfBusy _ .portWedged).returns .portWedgedNow

theorem execRead_stageReported (idx : BitVec 8) (b l c : Word) :
    NextMeets (StageReported s) (execRead idx b l c s) := by
  unfold execRead
  split <;> refine nextMeets_next.2 ?_
  · exact (StageReported.refl s).returns _
  · exact (StageReported.refl s).startCommon _ .rx b l c

theorem execWrite_stageReported (idx : BitVec 8) (b l c : Word) :
    NextMeets (StageReported s) (execWrite idx b l c s) := by
  unfold execWrite
  split <;> refine nextMeets_next.2 ?_
  · exact (StageReported.refl s).returns _
  · exact (StageReported.refl s).startCommon _ .tx b l c

theorem execStop_stageReported (idx : BitVec 8) : NextMeets (StageReported s) (execStop idx s) := by
  unfold execStop
  split <;> refine nextMeets_next.2 ?_
  · exact (StageReported.refl s).returns _
  · exact ((StageReported.refl s).terminateIfBusy _ .stopped).returns .ok

theorem execDmaStart_stageReported (idx : BitVec 8) (b l : Word) (f : FPort) (c : Word) :
    NextMeets (StageReported s) (execDmaStart idx b l f c s) := by
  have h : StageReported s s := .refl s
  unfold execDmaStart
  split <;> [split; skip; skip] <;> refine nextMeets_next.2 ?_
  · exact h.returns _
  · exact h.dmaStart _ b l _ c
  · exact h.returns _
  · exact h.returns _

theorem execDmaIrq_stageReported (f : FPort) : NextMeets (StageReported s) (execDmaIrq f s) := by
  unfold execDmaIrq
  split <;> [skip; split <;> [skip; split]]
  · exact nextMeets_refused _
  · exact nextMeets_refused _
  · exact nextMeets_refused _
  · exact dmaIrq_stageReported _

theorem execHwRxPacket_stageReported (idx : BitVec 8) (bs : List Byte) :
    NextMeets (StageReported s) (execHwRxPacket idx bs s) := by
  unfold execHwRxPacket
  split
  · exact nextMeets_refused _
  · exact hwPipeStep_meets fun j => .hwStep (.brdy j)

theorem execHwSetup_stageReported (bs : List Byte) : NextMeets (StageReported s) (execHwSetup bs s) := by
  unfold execHwSetup
  split <;> [skip; split]
  · exact nextMeets_refused _
  · exact nextMeets_refused _
  · exact nextMeets_next.2 (.hwStep .setup)

theorem execHwStatusDone_stageReported : NextMeets (StageReported s) (execHwStatusDone s) := by
  unfold execHwStatusDone
  split <;> [skip; split]
  · exact nextMeets_refused _
  · exact nextMeets_refused _
  · exact nextMeets_next.2 (.hwStep .stsdone)

theorem execHwSeqErr_stageReported : NextMeets (StageReported s) (execHwSeqErr s) := by
  unfold execHwSeqErr
  split
  · exact nextMeets_refused _
  · exact nextMeets_next.2 (.hwStep .seqerr)

theorem execDmaBlock_stageReported (f : FPort) : NextMeets (StageReported s) (execDmaBlock f s) := by
  unfold execDmaBlock
  split <;> [skip; split <;> [skip; split]]
  · exact nextMeets_refused _
  · exact nextMeets_refused _
  · exact nextMeets_next.2 (moveBlock_stageReported _)
  · exact nextMeets_refused _

theorem execHBrdy_stageReported (p : BitVec 5) : NextMeets (StageReported s) (execHBrdy p s) := by
  unfold execHBrdy
  split
  · exact nextMeets_refused _
  · exact nextMeets_next.2 ((StageReported.refl s).handleBrdy _)

theorem execHBemp_stageReported (p : BitVec 5) : NextMeets (StageReported s) (execHBemp p s) := by
  unfold execHBemp
  split
  · exact nextMeets_refused _
  · exact nextMeets_next.2 (StageReported.refl s)

theorem execHNrdy_stageReported (p : BitVec 5) : NextMeets (StageReported s) (execHNrdy p s) := by
  unfold execHNrdy
  split
  · exact nextMeets_refused _
  · exact nextMeets_next.2 ((StageReported.refl s).handleNrdy _)

theorem execHDetach_stageReported (k : BitVec 3) : NextMeets (StageReported s) (execHDetach k s) := by
  unfold execHDetach linkHandler
  split <;> [skip; split]
  · exact nextMeets_refused _
  · exact nextMeets_refused _
  · next hm => exact nextMeets_next.2 (handleDetach_stageReported (not_not.1 hm) _)

/-- Every operation that does not write the control state itself. -/
theorem exec_stageReported (i : Instr) (hi : writesStage i = false) : NextMeets (StageReported s) (exec i s) := by
  have h : StageReported s s := .refl s
  cases i with
  | configurePipe idx ty d m a => exact execConfigurePipe_stageReported idx ty d m a
  | releasePipe idx => exact execReleasePipe_stageReported idx
  | acquirePort idx f => exact execAcquirePort_stageReported idx f
  | read idx b l c => exact execRead_stageReported idx b l c
  | write idx b l c => exact execWrite_stageReported idx b l c
  | stop idx => exact execStop_stageReported idx
  | dmaStart idx b l f c => exact execDmaStart_stageReported idx b l f c
  | linkAttachProcess idx => exact linkCommand_meets h.returns fun k => h.link (k := k) (by simp [OnlyLink.refl])
  | linkBusReset idx => exact linkCommand_meets h.returns fun k => h.link (k := k) (by simp [OnlyLink.refl])
  | linkSuspend idx => exact linkCommand_meets h.returns fun k => h.link (k := k) (by simp [OnlyLink.refl])
  | linkResume idx => exact linkCommand_meets h.returns fun k => h.link (k := k) (by simp [OnlyLink.refl])
  | linkSetAddress idx a => exact linkCommand_meets h.returns fun k => h.link (k := k) (by simp [OnlyLink.refl])
  | dmaIrq f => exact execDmaIrq_stageReported f
  | hwRxPacket idx bs => exact execHwRxPacket_stageReported idx bs
  | hwTxReady idx => exact hwPipeStep_meets fun j => .hwStep (.brdy j)
  | hwNotReady idx => exact hwPipeStep_meets fun j => .hwStep (.nrdy j)
  | hwStall idx => exact hwPipeStep_meets fun j => .hwStep (.nrdy j)
  | hwBufEmpty idx => exact hwPipeStep_meets fun j => .hwStep (.bemp j)
  | hwAttach idx => exact hwLinkStep_meets fun k => .hwStep (.attach k)
  | hwDetach idx => exact hwLinkStep_meets fun k => .hwStep (.detach k)
  | hwLinechg idx => exact hwLinkStep_meets fun k => .hwStep (.linechg k)
  | hwSetup bs => exact execHwSetup_stageReported bs
  | hwStatusDone => exact execHwStatusDone_stageReported
  | hwSeqErr => exact execHwSeqErr_stageReported
  | dmaBlock f => exact execDmaBlock_stageReported f
  | hBrdy p => exact execHBrdy_stageReported p
  | hBemp p => exact execHBemp_stageReported p
  | hNrdy p => exact execHNrdy_stageReported p
  | hAttach k => exact linkHandler_meets fun k => h.link (onlyLink_handleAttach.2 (.refl k s))
  | hDetach k => exact execHDetach_stageReported k
  | hLinechg k => exact linkHandler_meets fun k => h.link (onlyLink_handleLinechg.2 (.refl k s))
  | ctrlAck | ctrlStall | ctrlData | usbIrq | hSetup | hStsdone | hSeqerr => cases hi

/-! ### The operations on the request itself -/

theorem ctrlAck_stage (h : (ctrlAck s).ctrl.state ≠ s.ctrl.state) :
    s.ctrl.state = .cSetupReceived ∧ s.ctrl.wlen = 0 ∧ (ctrlAck s).ctrl.state = .cStatusStage := by
  by_cases hc : s.ctrl.state ≠ .cSetupReceived ∨ s.ctrl.wlen ≠ 0
  · rw [ctrlAck_illegal hc] at h
    exact absurd rfl h
  · obtain ⟨hstate, hlen⟩ : s.ctrl.state = .cSetupReceived ∧ s.ctrl.wlen = 0 := by simpa using hc
    exact ⟨hstate, hlen, by rw [ctrlAck_legal hstate hlen]; rfl⟩

/-- Submitting the data phase moves no control state: outside a data stage no end of a request does (R198). -/
theorem ctrlData_stage {b l c : Word} (h : (ctrlData b l c s).ctrl.state ≠ s.ctrl.state) :
    s.ctrl.state = .cSetupReceived ∧ 0 < s.ctrl.wlen ∧ (ctrlData b l c s).ret = some .ok ∧
      (ctrlData b l c s).ctrl.state = .cDataStage := by
  by_cases hc : s.ctrl.state ≠ .cSetupReceived ∨ s.ctrl.wlen = 0
  · rw [ctrlData_illegal hc] at h
    exact absurd rfl h
  · obtain ⟨hstate, hlen⟩ : s.ctrl.state = .cSetupReceived ∧ s.ctrl.wlen ≠ 0 := by simpa using hc
    rw [ctrlData_legal hstate hlen] at h ⊢
    by_cases hr : (startCommon 0 s.ctrl.dataDir b l c s).ret = some .ok
    · rw [ctrlDataResult_ok hr]
      exact ⟨hstate, Nat.pos_of_ne_zero hlen, hr, rfl⟩
    · have hsame : SameCtrl s (startCommon 0 s.ctrl.dataDir b l c s) :=
        startCommon_sameCtrl s.ctrl.dataDir b l c (by simp [State.inDataStage, hstate])
      rw [ctrlDataResult_failed hr, hsame.ctrl] at h
      exact absurd rfl h

theorem handleStsdone_stage (h : (handleStsdone s).ctrl.state ≠ s.ctrl.state) :
    s.ctrl.state = .cStatusStage ∧ (handleStsdone s).ctrl.state = .cIdle := by
  by_cases hc : s.ctrl.state = .cStatusStage
  · exact ⟨hc, by rw [handleStsdone_statusStage hc]; rfl⟩
  · rw [handleStsdone_elsewhere hc] at h
    exact absurd rfl h

theorem ctrlCommand_stage (h : ctrlCommand s u = .next t) (hne : t.ctrl.state ≠ s.ctrl.state) : t = u := by
  unfold ctrlCommand at h
  split at h <;> cases h
  · exact absurd rfl hne
  · rfl

theorem ctrlHandler_next (h : ctrlHandler s u = .next t) : t = u := by
  unfold ctrlHandler at h
  split at h <;> cases h
  rfl

/-- Settles O54: six operations write the control state themselves, and every other one moves it only where it ends a data
stage and reports the end. -/
theorem ctrlTransitions : Obligations.CtrlTransitions := by
  intro i s t h hi hne
  cases hw : writesStage i with
  | false =>
    obtain ⟨l, hl, hsame | ⟨hdata, e, he, hpipe, hend⟩⟩ := exec_stageReported i hw t h
    · exact absurd hsame hne
    · exact .inr (.inr (.inr (.inl ⟨hdata, e, by rwa [hl, List.drop_left], hpipe, hend⟩)))
  | true =>
    cases i with
    | hSetup => exact .inl ⟨rfl, ctrlHandler_next h ▸ rfl⟩
    | ctrlAck =>
      obtain rfl := ctrlCommand_stage h hne
      exact .inr (.inl ⟨rfl, ctrlAck_stage hne⟩)
    | ctrlData b l c =>
      obtain rfl := ctrlCommand_stage h hne
      exact .inr (.inr (.inl ⟨b, l, c, rfl, ctrlData_stage hne⟩))
    | hStsdone =>
      obtain rfl := ctrlHandler_next h
      exact .inr (.inr (.inr (.inr (.inl ⟨rfl, handleStsdone_stage hne⟩))))
    | ctrlStall => exact .inr (.inr (.inr (.inr (.inr ⟨.inl rfl, ctrlCommand_stage h hne ▸ rfl⟩))))
    | hSeqerr => exact .inr (.inr (.inr (.inr (.inr ⟨.inr rfl, ctrlHandler_next h ▸ rfl⟩))))
    | usbIrq => exact absurd rfl hi
    | _ => cases hw

end Sys2Proof.Machine
end

section
/-! SUPPORT. No handler reads a status bit, and none sets one (R213): in the state with one status bit cleared every
read of a handler answers the same, every update commutes with clearing the bit, and so does the handler. The reads are
not plain `rfl` equations, so that `simp` does not rewrite a condition's decision procedure with them. -/

namespace Sys2Proof.Machine

variable {s : State} {x : Source}

/-- The same state with the status bit of one source cleared. -/
def State.cleared (s : State) (x : Source) : State := s.setSts x false

/-! ### Reads -/

@[simp] theorem cleared_cfg : (s.cleared x).cfg = s.cfg := setSts_cfg s x false

@[simp] theorem cleared_pipe (j : PipeId) : (s.cleared x).pipe j = s.pipe j := setSts_pipe s x false j

@[simp] theorem cleared_port (p : FPort) : (s.cleared x).port p = s.port p := setSts_port s x false p

@[simp] theorem cleared_chan (p : DPort) : (s.cleared x).chan p = s.chan p := setSts_chan s x false p

@[simp] theorem cleared_link (k : PortId) : (s.cleared x).link k = s.link k := setSts_link s x false k

@[simp] theorem cleared_ctrl : (s.cleared x).ctrl = s.ctrl := setSts_ctrl s x false

@[simp] theorem cleared_mem : (s.cleared x).mem = s.mem := setSts_mem s x false

@[simp] theorem cleared_draws : (s.cleared x).draws = s.draws := setSts_draws s x false

@[simp] theorem cleared_enb (y : Source) : (s.cleared x).enb y = s.enb y := setSts_enb s x false y

@[simp] theorem cleared_route (j : PipeId) : (s.cleared x).route j = s.route j := by
  simp [State.route, State.xdir]

@[simp] theorem cleared_busy (j : PipeId) : (s.cleared x).busy j = s.busy j := busy_congr fun d => by simp

/-! ### Updates: two status bits may be cleared in either order -/

@[simp] theorem ite_cleared {c : Prop} [Decidable c] (t u : State) :
    (if c then t.cleared x else u.cleared x) = (if c then t else u).cleared x := by
  split <;> rfl

theorem setBit_false_comm {w : Nat} (r : BitVec w) (i j : Nat) :
    setBit (setBit r i false) j false = setBit (setBit r j false) i false := by
  simp only [setBit, Bool.false_eq_true, if_false]
  ac_rfl

@[simp] theorem setSts_cleared (y : Source) : (s.cleared x).setSts y false = (s.setSts y false).cleared x := by
  unfold State.cleared State.setSts
  cases x.reg <;> cases y.reg <;> simp [setBit_false_comm]

@[simp] theorem setEnb_cleared (y : Source) (b : Bool) : (s.cleared x).setEnb y b = (s.setEnb y b).cleared x := by
  unfold State.cleared State.setSts State.setEnb
  cases x.reg <;> cases y.reg <;> rfl

@[simp] theorem modPipe_cleared (j : PipeId) (f : Pipe → Pipe) :
    (s.cleared x).modPipe j f = (s.modPipe j f).cleared x := by
  cases x <;> rfl

@[simp] theorem modPort_cleared (p : FPort) (f : Port → Port) :
    (s.cleared x).modPort p f = (s.modPort p f).cleared x := by
  cases x <;> cases p <;> rfl

@[simp] theorem modChan_cleared (p : DPort) (f : Chan → Chan) :
    (s.cleared x).modChan p f = (s.modChan p f).cleared x := by
  cases x <;> cases p <;> rfl

@[simp] theorem modLink_cleared (k : PortId) (f : Link → Link) :
    (s.cleared x).modLink k f = (s.modLink k f).cleared x := by
  cases x <;> rfl

@[simp] theorem modCtrl_cleared (f : Ctrl → Ctrl) : (s.cleared x).modCtrl f = (s.modCtrl f).cleared x := by
  cases x <;> rfl

@[simp] theorem setMem_cleared (m : Memory) : (s.cleared x).setMem m = (s.setMem m).cleared x := by
  cases x <;> rfl

@[simp] theorem setDraws_cleared (d : Draws) : (s.cleared x).setDraws d = (s.setDraws d).cleared x := by
  cases x <;> rfl

@[simp] theorem addTx_cleared (l : List TxEntry) : (s.cleared x).addTx l = (s.addTx l).cleared x := by
  cases x <;> rfl

@[simp] theorem addFifo_cleared (l : List FifoEntry) : (s.cleared x).addFifo l = (s.addFifo l).cleared x := by
  cases x <;> rfl

@[simp] theorem addEv_cleared (e : EvEntry) : (s.cleared x).addEv e = (s.addEv e).cleared x := by
  cases x <;> rfl

@[simp] theorem addTime_cleared (e : TimeEntry) : (s.cleared x).addTime e = (s.addTime e).cleared x := by
  cases x <;> rfl

@[simp] theorem addCb_cleared (e : CbEntry) : (s.cleared x).addCb e = (s.addCb e).cleared x := by
  cases x <;> rfl

@[simp] theorem addSetup_cleared (v : Vector Byte 8) : (s.cleared x).addSetup v = (s.addSetup v).cleared x := by
  cases x <;> rfl

/-! ### The shared operations -/

@[simp] theorem drawClearPolls_cleared :
    drawClearPolls (s.cleared x) = ((drawClearPolls s).1, (drawClearPolls s).2.cleared x) := by
  simp only [drawClearPolls, cleared_draws]
  split <;> simp

@[simp] theorem disableSources_cleared (j : PipeId) :
    disableSources j (s.cleared x) = (disableSources j s).cleared x := by
  simp [disableSources]

@[simp] theorem clearStatus_cleared (j : PipeId) : clearStatus j (s.cleared x) = (clearStatus j s).cleared x := by
  simp [clearStatus]

@[simp] theorem restoreSources_cleared (j : PipeId) (b n e : Bool) :
    restoreSources j b n e (s.cleared x) = (restoreSources j b n e s).cleared x := by
  simp [restoreSources]

@[simp] theorem gate_cleared (k : PortId) : gate k (s.cleared x) = (gate k s).cleared x := by
  simp [gate]

@[simp] theorem fifoWrite_cleared (p : FPort) (bs : List Byte) :
    fifoWrite p bs (s.cleared x) = (fifoWrite p bs s).cleared x := by
  simp [fifoWrite, logFifo]

@[simp] theorem fifoRead_cleared (p : FPort) (j : PipeId) (n : Nat) :
    fifoRead p j n (s.cleared x) = ((fifoRead p j n s).1, (fifoRead p j n s).2.cleared x) := by
  simp [fifoRead, logFifo]

@[simp] theorem commit_cleared (p : FPort) (j : PipeId) (b : Bool) :
    commit p j b (s.cleared x) = (commit p j b s).cleared x := by
  simp [commit]

@[simp] theorem clearPort_cleared (p : FPort) :
    clearPort p (s.cleared x) = ((clearPort p s).1, (clearPort p s).2.cleared x) := by
  simp only [clearPort, drawClearPolls_cleared, cleared_cfg]
  split <;> simp

@[simp] theorem dropPort_cleared (j : PipeId) (p q : FPort) :
    dropPort j p q (s.cleared x) = (dropPort j p q s).cleared x := by
  simp [dropPort]

@[simp] theorem dropOthers_cleared (j : PipeId) (p : FPort) :
    dropOthers j p (s.cleared x) = (dropOthers j p s).cleared x := by
  simp [dropOthers]

@[simp] theorem bindOrWedge_cleared (j : PipeId) (p : FPort) :
    bindOrWedge j p (s.cleared x) = ((bindOrWedge j p s).1, (bindOrWedge j p s).2.cleared x) := by
  simp [bindOrWedge]

@[simp] theorem acquirePort_cleared (j : PipeId) (p : FPort) :
    acquirePort j p (s.cleared x) = ((acquirePort j p s).1, (acquirePort j p s).2.cleared x) := by
  simp only [acquirePort, cleared_port]
  split <;> simp

@[simp] theorem ctrlDataDone_cleared (r : Result) : ctrlDataDone r (s.cleared x) = (ctrlDataDone r s).cleared x := by
  simp [ctrlDataDone]

@[simp] theorem finish_cleared (j : PipeId) (d : Dir) (r : Result) :
    finish j d r (s.cleared x) = (finish j d r s).cleared x := by
  simp [finish, callback]

@[simp] theorem complete_cleared (j : PipeId) (d : Dir) (r : Result) :
    complete j d r (s.cleared x) = (complete j d r s).cleared x := by
  simp [complete]

@[simp] theorem dropChan_cleared (j : PipeId) (p : DPort) :
    dropChan j p (s.cleared x) = (dropChan j p s).cleared x := by
  simp [dropChan]

@[simp] theorem clearOwned_cleared (j : PipeId) (p : FPort) :
    clearOwned j p (s.cleared x) = (clearOwned j p s).cleared x := by
  simp [clearOwned]

@[simp] theorem quiesce_cleared (j : PipeId) : quiesce j (s.cleared x) = (quiesce j s).cleared x := by
  simp [quiesce]

@[simp] theorem finishIfBusy_cleared (j : PipeId) (d : Dir) (r : Result) :
    finishIfBusy j d r (s.cleared x) = (finishIfBusy j d r s).cleared x := by
  simp [finishIfBusy]

@[simp] theorem terminateAll_cleared (j : PipeId) (r : Result) :
    terminateAll j r (s.cleared x) = (terminateAll j r s).cleared x := by
  simp [terminateAll]

@[simp] theorem terminateIfBusy_cleared (j : PipeId) (r : Result) :
    terminateIfBusy j r (s.cleared x) = (terminateIfBusy j r s).cleared x := by
  simp [terminateIfBusy]

@[simp] theorem releasePipe_cleared (j : PipeId) : releasePipe j (s.cleared x) = (releasePipe j s).cleared x := by
  simp [releasePipe]

/-! ### The handlers -/

@[simp] theorem advanceSlot_cleared (j : PipeId) (d : Dir) (n : Nat) :
    advanceSlot j d n (s.cleared x) = (advanceSlot j d n s).cleared x := by
  simp [advanceSlot]

@[simp] theorem writeOwned_cleared (j : PipeId) : writeOwned j (s.cleared x) = (writeOwned j s).cleared x := by
  simp [writeOwned]

@[simp] theorem writeChunk_cleared (j : PipeId) : writeChunk j (s.cleared x) = (writeChunk j s).cleared x := by
  simp [writeChunk]

@[simp] theorem readOwned_cleared (j : PipeId) (pkt : List Byte) :
    readOwned j pkt (s.cleared x) = (readOwned j pkt s).cleared x := by
  simp [readOwned]

@[simp] theorem readChunk_cleared (j : PipeId) : readChunk j (s.cleared x) = (readChunk j s).cleared x := by
  simp only [readChunk, cleared_pipe]
  split <;> simp

@[simp] theorem handleBrdy_cleared (j : PipeId) : handleBrdy j (s.cleared x) = (handleBrdy j s).cleared x := by
  simp only [handleBrdy, cleared_route, cleared_pipe]
  split <;> [skip; split] <;> simp

@[simp] theorem handleNrdy_cleared (j : PipeId) : handleNrdy j (s.cleared x) = (handleNrdy j s).cleared x := by
  simp [handleNrdy, retryNotReady, delay]

@[simp] theorem handleAttach_cleared (k : PortId) : handleAttach k (s.cleared x) = (handleAttach k s).cleared x := by
  simp [handleAttach, enterLink]

@[simp] theorem handleLinechg_cleared (k : PortId) : handleLinechg k (s.cleared x) = (handleLinechg k s).cleared x := by
  simp [handleLinechg]

theorem detachPipe_cleared (a : BitVec 7) (s : State) (j : PipeId) :
    detachPipe a (s.cleared x) j = (detachPipe a s j).cleared x := by
  simp [detachPipe]

@[simp] theorem handleDetach_cleared (k : PortId) : handleDetach k (s.cleared x) = (handleDetach k s).cleared x := by
  have hpipes (a : BitVec 7) : allPipes.foldl (detachPipe a) (s.cleared x) =
      (allPipes.foldl (detachPipe a) s).cleared x :=
    List.foldl_hom (g₁ := detachPipe a) (g₂ := detachPipe a) (State.cleared · x) (detachPipe_cleared a)
  simp [handleDetach, hpipes, notify]

@[simp] theorem handleSetup_cleared : handleSetup (s.cleared x) = (handleSetup s).cleared x := by
  simp [handleSetup]

@[simp] theorem handleStsdone_cleared : handleStsdone (s.cleared x) = (handleStsdone s).cleared x := by
  simp [handleStsdone]

@[simp] theorem handleSeqerr_cleared : handleSeqerr (s.cleared x) = (handleSeqerr s).cleared x := by
  simp [handleSeqerr, stallControl]

theorem handler_cleared (y : Source) : handler y (s.cleared x) = (handler y s).cleared x := by
  cases y with
  | brdy j => exact handleBrdy_cleared j
  | bemp j => rfl
  | nrdy j => exact handleNrdy_cleared j
  | attach k => exact handleAttach_cleared k
  | detach k => exact handleDetach_cleared k
  | linechg k => exact handleLinechg_cleared k
  | setup => exact handleSetup_cleared
  | stsdone => exact handleStsdone_cleared
  | seqerr => exact handleSeqerr_cleared

/-! ### A source's handler as an operation -/

/-- Why the handler of a source is no step, if it is none: its pipe or port does not exist (R83), or the operating mode
is the other one (R88). -/
def State.sourceRefusal (s : State) : Source → Option Refusal
  | .brdy j | .bemp j | .nrdy j => if j.val < s.cfg.numPipes then none else some .reservedSource
  | .attach k | .detach k | .linechg k =>
    if k.val < s.cfg.numPhysPorts then (if s.cfg.mode = .host then none else some .wrongMode) else some .reservedSource
  | .setup | .stsdone | .seqerr => if s.cfg.mode = .peripheral then none else some .wrongMode

theorem sourceRefusal_congr {t : State} (h : t.cfg = s.cfg) (y : Source) : t.sourceRefusal y = s.sourceRefusal y := by
  cases y <;> simp [State.sourceRefusal, h]

/-- The outcome of running the handler of `y`. -/
def runHandler (y : Source) (s : State) : Host.Outcome State Fault Refusal :=
  (s.sourceRefusal y).elim (.next (handler y s)) .refused

theorem pipeOf?_sourceBits (j : PipeId) :
    s.pipeOf? (BitVec.ofNat 5 j.val).toNat = if j.val < s.cfg.numPipes then some j else none := by
  have hj : (BitVec.ofNat 5 j.val).toNat = j.val := Nat.mod_eq_of_lt (by omega)
  rw [hj, State.pipeOf?, dif_pos j.isLt]

theorem portOf?_sourceBits (k : PortId) :
    s.portOf? (BitVec.ofNat 3 k.val).toNat = if k.val < s.cfg.numPhysPorts then some k else none := by
  have hk : (BitVec.ofNat 3 k.val).toNat = k.val := Nat.mod_eq_of_lt (by omega)
  rw [hk, State.portOf?, dif_pos k.isLt]

theorem linkHandler_sourceBits (k : PortId) (f : PortId → State) :
    linkHandler (BitVec.ofNat 3 k.val) s f = (s.sourceRefusal (.attach k)).elim (.next (f k)) .refused := by
  rw [linkHandler, portOf?_sourceBits, State.sourceRefusal]
  by_cases hk : k.val < s.cfg.numPhysPorts
  · by_cases hm : s.cfg.mode = .host <;> simp [hk, hm]
  · simp [hk]

theorem ctrlHandler_refusal (t : State) : ctrlHandler s t = (s.sourceRefusal .setup).elim (.next t) .refused := by
  rw [ctrlHandler, State.sourceRefusal]
  by_cases hm : s.cfg.mode = .peripheral <;> simp [hm]

/-- The operation of a source (R83) runs its handler. -/
theorem exec_instr (y : Source) (s : State) : exec y.instr s = runHandler y s := by
  cases y with
  | brdy j | bemp j | nrdy j =>
    simp only [Source.instr, exec, execHBrdy, execHBemp, execHNrdy, pipeOf?_sourceBits, runHandler, State.sourceRefusal]
    by_cases hj : j.val < s.cfg.numPipes <;> simp [hj, handler]
  | attach k => exact linkHandler_sourceBits k fun k => handleAttach k s
  | detach k => exact linkHandler_sourceBits k fun k => handleDetach k s
  | linechg k => exact linkHandler_sourceBits k fun k => handleLinechg k s
  | setup => exact ctrlHandler_refusal (handleSetup s)
  | stsdone => exact ctrlHandler_refusal (handleStsdone s)
  | seqerr => exact ctrlHandler_refusal (handleSeqerr s)

theorem runHandler_cleared (y : Source) : runHandler y (s.cleared x) = mapNext (·.cleared x) (runHandler y s) := by
  unfold runHandler
  rw [sourceRefusal_congr cleared_cfg, handler_cleared]
  cases s.sourceRefusal y <;> rfl

/-- Settles O56: no handler reads a status bit, and each update of one commutes with clearing the source's bit. -/
theorem clearOrderIrrelevant : Obligations.ClearOrderIrrelevant := by
  intro x s
  rw [exec_instr, exec_instr]
  exact runHandler_cleared x

end Sys2Proof.Machine
end

section
/-! SUPPORT. The dispatcher (R210 to R213): each register's turn delivers the sources of its bitmap in order. An enabled
source exists, by the invariants of pipes, links and control record, and every turn keeps those. -/

namespace Sys2Proof.Machine

variable {s : State} {x : Source}

/-! ### The interrupt request -/

theorem mem_allRegs (r : EvtReg) : r ∈ allRegs := by cases r <;> decide

theorem mem_sources (x : Source) : x ∈ x.reg.sources := by
  cases x with
  | brdy j | bemp j | nrdy j => exact List.mem_map_of_mem (mem_allPipes j)
  | attach k | detach k | linechg k => revert k; decide
  | setup | stsdone | seqerr => decide

theorem irqAsserted_iff : s.irqAsserted = true ↔ ∃ x, s.sts x = true ∧ s.enb x = true := by
  simp only [State.irqAsserted, List.any_eq_true, State.pending, Bool.and_eq_true]
  constructor
  · rintro ⟨r, -, x, -, hx⟩
    exact ⟨x, hx⟩
  · rintro ⟨x, hx⟩
    exact ⟨x.reg, mem_allRegs _, x, mem_sources x, hx⟩

/-! ### Sources that exist -/

/-- The invariants that say which sources can be enabled. -/
structure SourceInv (s : State) : Prop where
  pipes : PipeInv s
  links : LinkInv s
  ctrl : CtrlInv s

theorem PipeInv.exist_of_enb (h : PipeInv s) {j : PipeId} (hx : x.pipe? = some j) (he : s.enb x = true) :
    j.val < s.cfg.numPipes := by
  have hj : PipeOk s j := pipeInv_iff.1 h j
  cases hc : (s.pipe j).configured with
  | true => exact hj.exist hc
  | false => exact absurd ((hj.free hc).enb x hx) (by simp [he])

theorem CtrlInv.peripheral_of_enb (h : CtrlInv s) (hx : x.reg = .ctrl) (he : s.enb x = true) :
    s.cfg.mode = .peripheral := by
  rw [h.enabled x hx] at he
  exact of_decide_eq_true he

theorem SourceInv.sourceRefusal_of_enb (h : SourceInv s) (he : s.enb x = true) : s.sourceRefusal x = none := by
  cases x with
  | brdy j | bemp j | nrdy j => exact if_pos (h.pipes.exist_of_enb rfl he)
  | attach k | detach k | linechg k =>
    obtain ⟨hmode, hport⟩ := h.links.hasPort rfl he
    simp [State.sourceRefusal, hmode, hport]
  | setup | stsdone | seqerr => exact if_pos (h.ctrl.peripheral_of_enb rfl he)

/-! ### One register's turn -/

theorem dispatchReg_pipeInv (r : EvtReg) (h : PipeInv s) : PipeInv (dispatchReg s r) :=
  (PipeSteps.start.foldl (i := .usbIrq) (fun _ x hu => hu.deliver x) (s.bitmap r)).pipeInv h

theorem dispatchReg_ctrlInv (r : EvtReg) (h : CtrlInv s) : CtrlInv (dispatchReg s r) :=
  (During.start.dispatchReg r fun _ _ _ => rfl).ctrlInv h

protected theorem SourceInv.dispatchReg (h : SourceInv s) (r : EvtReg) : SourceInv (dispatchReg s r) :=
  ⟨dispatchReg_pipeInv r h.pipes, h.links.dispatchReg r, dispatchReg_ctrlInv r h.ctrl⟩

theorem exec_instr_of_exists (h : s.sourceRefusal x = none) : exec x.instr s = .next (handler x s) := by
  rw [exec_instr, runHandler, h, Option.elim]

theorem deliveries_foldl (xs : List Source) (h : ∀ x ∈ xs, s.sourceRefusal x = none) :
    Deliveries s xs (xs.foldl deliver s) := by
  induction xs generalizing s with
  | nil => exact .none s
  | cons x xs ih =>
    have hx : s.sourceRefusal x = none := h x List.mem_cons_self
    have hd : Deliveries (deliver s x) xs (xs.foldl deliver (deliver s x)) := ih fun y hy =>
      (sourceRefusal_congr (deliver_sameOwn s x).cfg y).trans (h y (List.mem_cons_of_mem x hy))
    rw [List.foldl_cons]
    cases hs : s.sens x.reg with
    | edge =>
      simp only [deliver, hs] at hd ⊢
      exact .edge hs (exec_instr_of_exists ((sourceRefusal_congr (setSts_cfg s x false) x).trans hx)) hd
    | level =>
      simp only [deliver, hs] at hd ⊢
      exact .level hs (exec_instr_of_exists hx) hd

theorem SourceInv.deliveries (h : SourceInv s) (r : EvtReg) : Deliveries s (s.bitmap r) (dispatchReg s r) :=
  deliveries_foldl (s.bitmap r) fun _ hx =>
    h.sourceRefusal_of_enb (Bool.and_eq_true_iff.1 (List.mem_filter.1 hx).2).2

/-! ### All five turns -/

theorem dispatch_eq : dispatch s = dispatchReg (dispatchReg (dispatchReg (dispatchReg (dispatchReg s .brdy) .bemp)
    .nrdy) .link) .ctrl := rfl

theorem exec_usbIrq_idle (h : s.irqAsserted = false) : exec .usbIrq s = .refused .notEnabled := by
  simp [exec, execUsbIrq, h]

theorem exec_usbIrq_asserted (h : s.irqAsserted = true) : exec .usbIrq s = .next (dispatch s) := by
  simp [exec, execUsbIrq, h]

/-- Settles O55: the dispatcher is the five registers' turns, and each finds the invariants its predecessors kept. -/
theorem usbIrq : Obligations.UsbIrq := by
  refine fun s => ⟨irqAsserted_iff, exec_usbIrq_idle, fun hirq hpipes hlinks hctrl => ?_⟩
  have h0 : SourceInv s := ⟨hpipes, hlinks, hctrl⟩
  have h1 := h0.dispatchReg .brdy
  have h2 := h1.dispatchReg .bemp
  have h3 := h2.dispatchReg .nrdy
  have h4 := h3.dispatchReg .link
  exact ⟨_, _, _, _, _, h0.deliveries .brdy, h1.deliveries .bemp, h2.deliveries .nrdy, h3.deliveries .link,
    h4.deliveries .ctrl, (exec_usbIrq_asserted hirq).trans (congrArg _ dispatch_eq)⟩

end Sys2Proof.Machine
end

section
/-! SUPPORT. The steps of agent `Hw` (R230 to R241): each raises one status bit, after at most one change to a pipe
record or to the control record, and leaves the toggle bits free. -/

namespace Sys2Proof.Machine

variable {s t : State} {i : PipeId} {k : PortId} {x : Source} {idx : BitVec 8}

/-! ### A raised status bit (R230, R244) -/

/-- What every `Hw` step ends with: the status bit of `x` is set and the toggle bits are drawn. -/
def raise (x : Source) (s : State) : State := hwToggles (s.setSts x true)

@[simp] theorem raise_ctrl : (raise x s).ctrl = s.ctrl := by simp [raise]

theorem raise_same (j : PipeId) : ((raise x s).pipe j).SameButToggle (s.pipe j) :=
  setSts_pipe s x true j ▸ hwToggles_same j

theorem hwStep_raise (x : Source) (s : State) : HwStep x s (raise x s) := by
  constructor
  case sts =>
    intro y
    by_cases h : y = x <;> simp [raise, h, Ne.symm]
  all_goals simp [raise]

/-- The frame of a `Hw` step says nothing of the pipe table and of the control record. -/
theorem HwStep.of_pipes_ctrl {v : Vector Pipe 16} {c : Ctrl} (h : HwStep x { s with pipes := v, ctrl := c } t) :
    HwStep x s t :=
  ⟨h.cfg, h.sts, h.enb, h.ports, h.chans, h.links, h.mem, h.logs, h.ret, h.inbox⟩

/-- `Hw` has set the status bit of `x` and left the control record `c` and, toggle bits aside, the pipe records
`q`. -/
def Reports (x : Source) (s : State) (c : Ctrl) (q : PipeId → Pipe) (t : State) : Prop :=
  HwStep x s t ∧ t.ctrl = c ∧ ∀ j, (t.pipe j).SameButToggle (q j)

theorem reports_raise (x : Source) (s : State) : Reports x s s.ctrl s.pipe (raise x s) :=
  ⟨hwStep_raise x s, raise_ctrl, raise_same⟩

theorem reports_raise_modPipe (x : Source) (s : State) (i : PipeId) (f : Pipe → Pipe) :
    Reports x s s.ctrl (fun j => if j = i then f (s.pipe i) else s.pipe j) (raise x (s.modPipe i f)) := by
  refine ⟨(hwStep_raise x _).of_pipes_ctrl, raise_ctrl, fun j => ?_⟩
  simpa [eq_comm] using raise_same (x := x) (s := s.modPipe i f) j

theorem reports_raise_modCtrl (x : Source) (s : State) (f : Ctrl → Ctrl) :
    Reports x s (f s.ctrl) s.pipe (raise x (s.modCtrl f)) :=
  ⟨(hwStep_raise x _).of_pipes_ctrl, raise_ctrl, raise_same⟩

/-! ### When a step about a pipe exists (R231 to R235) -/

theorem canReceive_iff {n : Nat} : s.canReceive i n = true ↔ (s.pipe i).configured = true ∧ s.route i = .rx ∧
    (s.pipe i).slotRx.state = .armed ∧ (s.pipe i).pid = .buf ∧ (s.pipe i).rxFifo = none ∧ n ≤ (s.pipe i).mps := by
  simp [State.canReceive, and_assoc]

theorem canTransmit_iff : s.canTransmit i = true ↔ (s.pipe i).configured = true ∧ s.route i = .tx ∧
    (s.pipe i).slotTx.state = .armed ∧ (s.pipe i).pid = .buf ∧ s.sts (.brdy i) = false := by
  simp [State.canTransmit, and_assoc]

theorem canRespond_iff : s.canRespond i = true ↔ (s.pipe i).configured = true ∧
    ((s.pipe i).slot (s.route i)).state ≠ .idle ∧ (s.pipe i).pid = .buf := by
  simp [State.canRespond, and_assoc]

theorem hwPipeStep_enabled {en : PipeId → Bool} (f : PipeId → State) (hi : s.pipeOf? idx.toNat = some i)
    (he : en i = true) : hwPipeStep idx s en f = .next (hwToggles (f i)) := by
  simp [hwPipeStep, hi, he]

theorem hwPipeStep_disabled {en : PipeId → Bool} (f : PipeId → State) (hi : s.pipeOf? idx.toNat = some i)
    (he : ¬ en i = true) : hwPipeStep idx s en f = .refused .notEnabled := by
  simp [hwPipeStep, hi, he]

theorem execHwRxPacket_of_length {bs : List Byte} (hl : bs.length < 2 ^ 32) : execHwRxPacket idx bs s =
    hwPipeStep idx s (fun i => s.canReceive i bs.length) fun i =>
      (s.modPipe i fun q => { q with rxFifo := some bs }).setSts (.brdy i) true :=
  if_neg (Nat.not_le.2 hl)

/-- Settles O58: a step whose condition holds raises its bit, the packet or the stall being written first; every other
one is refused. -/
theorem hwPipeSteps : Obligations.HwPipeSteps := by
  refine fun idx s i hi => ⟨fun bs hl => ?_, ?_, ?_, ?_⟩
  · have hexec := execHwRxPacket_of_length (s := s) (idx := idx) hl
    split
    · next h =>
      exact ⟨_, hexec.trans (hwPipeStep_enabled _ hi (canReceive_iff.2 h)), reports_raise_modPipe (.brdy i) s i _⟩
    · next h => exact hexec.trans (hwPipeStep_disabled _ hi (mt canReceive_iff.1 h))
  · split
    · next h => exact ⟨_, hwPipeStep_enabled _ hi (canTransmit_iff.2 h), reports_raise (.brdy i) s⟩
    · next h => exact hwPipeStep_disabled _ hi (mt canTransmit_iff.1 h)
  · split
    · next h =>
      exact ⟨⟨_, hwPipeStep_enabled _ hi (canRespond_iff.2 h), reports_raise (.nrdy i) s⟩,
        ⟨_, hwPipeStep_enabled _ hi (canRespond_iff.2 h), reports_raise_modPipe (.nrdy i) s i _⟩⟩
    · next h =>
      exact ⟨hwPipeStep_disabled _ hi (mt canRespond_iff.1 h), hwPipeStep_disabled _ hi (mt canRespond_iff.1 h)⟩
  · split
    · next h => exact ⟨_, hwPipeStep_enabled _ hi h, reports_raise (.bemp i) s⟩
    · next h => exact hwPipeStep_disabled _ hi h

/-! ### Steps about a physical port and about the control endpoint (R236 to R241) -/

theorem hwLinkStep_host (f : PortId → State) (hm : s.cfg.mode = .host) (hk : s.portOf? idx.toNat = some k) :
    hwLinkStep idx s f = .next (hwToggles (f k)) := by
  simp [hwLinkStep, hk, hm]

theorem setupOf?_toList (v : Vector Byte 8) : setupOf? v.toList = some v := by
  simp [setupOf?, Vector.toList]

theorem exec_hwSetup (hm : s.cfg.mode = .peripheral) (v : Vector Byte 8) :
    exec (.hwSetup v.toList) s = .next (raise .setup (s.modCtrl fun c => { c with setup := v })) := by
  simp [exec, execHwSetup, setupOf?_toList, hm, raise]

theorem exec_hwStatusDone (hm : s.cfg.mode = .peripheral) : exec .hwStatusDone s =
    if s.ctrl.statusEn = false then .refused .notEnabled else .next (raise .stsdone s) := by
  simp [exec, execHwStatusDone, hm, raise]

theorem exec_hwSeqErr (hm : s.cfg.mode = .peripheral) : exec .hwSeqErr s = .next (raise .seqerr s) := by
  simp [exec, execHwSeqErr, hm, raise]

/-- Settles O59: in its mode each step raises its bit, the setup packet being stored first; only `HW_STATUS_DONE` has a
condition. -/
theorem hwLinkAndCtrlSteps : Obligations.HwLinkAndCtrlSteps := by
  refine ⟨fun idx s k hm hk => ⟨?_, ?_, ?_⟩, fun s hm => ⟨fun v => ?_, ?_, ?_⟩⟩
  · exact ⟨_, hwLinkStep_host _ hm hk, reports_raise (.attach k) s⟩
  · exact ⟨_, hwLinkStep_host _ hm hk, reports_raise (.detach k) s⟩
  · exact ⟨_, hwLinkStep_host _ hm hk, reports_raise (.linechg k) s⟩
  · exact ⟨_, exec_hwSetup hm v, reports_raise_modCtrl .setup s _⟩
  · have hexec := exec_hwStatusDone hm
    split
    · next h => exact ⟨_, hexec.trans (if_neg (by simp [h])), reports_raise .stsdone s⟩
    · next h => exact hexec.trans (if_pos (Bool.eq_false_of_not_eq_true h))
  · exact ⟨_, exec_hwSeqErr hm, reports_raise .seqerr s⟩

end Sys2Proof.Machine
end

section
/-! SUPPORT. `DMA_BLOCK` (R242): one block goes out of memory as full packets, or from the bus into memory. -/

namespace Sys2Proof.Machine

variable {s : State} {i : PipeId} {p : DPort}

/-! ### The packets of a block -/

/-- Part of what `MemRead` reads is what it reads there (R61). -/
theorem drop_take_memRead {m : Memory} {a : Word} {n j l : Nat} (h : j + l ≤ n) :
    ((memRead m a n).drop j).take l = memRead m (a + BitVec.ofNat 32 j) l := by
  obtain ⟨r, rfl⟩ := Nat.exists_eq_add_of_le h
  rw [Nat.add_assoc, memRead_add, List.drop_left' (length_memRead m a j), memRead_add,
    List.take_left' (length_memRead m _ l)]

theorem blockPackets_memRead {m : Nat} {mem : Memory} {a : Word} {b : Nat} : blockPackets i m (memRead mem a b) b =
    (List.range (b / m)).map fun j => TxEntry.mk i (memRead mem (a + BitVec.ofNat 32 (j * m)) m) false := by
  refine List.map_congr_left fun j hj => ?_
  have hle : (j + 1) * m ≤ b := (Nat.mul_le_mul_right m (List.mem_range.1 hj)).trans (Nat.div_mul_le_self b m)
  rw [drop_take_memRead (by rwa [Nat.succ_mul] at hle)]

/-! ### The descriptor and the draw -/

/-- The descriptor of a running transfer after a block of `n` bytes. -/
theorem Chan.moveBlock_running {c : Chan} {n : Nat} (ha : c.armed = true) (hd : c.done = false) (hc : 0 < c.crb)
    (hn : n ≤ c.blockSize) : c.moveBlock n =
    { c with
      addr := c.addr + BitVec.ofNat 32 n
      crb := c.crb - 1
      lastLen := n
      armed := decide (c.crb ≠ 1 ∧ n = c.blockSize)
      done := decide (c.crb = 1 ∨ n < c.blockSize) } := by
  have hended : (decide (c.crb - 1 = 0) || decide (n < c.blockSize)) = decide (c.crb = 1 ∨ n < c.blockSize) := by
    simp only [Bool.decide_or, show c.crb - 1 = 0 ↔ c.crb = 1 by omega]
  have hmore : (c.crb ≠ 1 ∧ n = c.blockSize) ↔ ¬ (c.crb = 1 ∨ n < c.blockSize) := by omega
  simp only [Chan.moveBlock, hended, hmore, ha, hd]
  by_cases h : c.crb = 1 ∨ n < c.blockSize <;> simp [h]

theorem drawRxBlock_length_le (b : Nat) : (drawRxBlock b s).1.length ≤ b := by
  unfold drawRxBlock
  split <;> exact List.length_take_le _ _

theorem drawRxBlock_state (b : Nat) : (drawRxBlock b s).2 = s.setDraws (drawRxBlock b s).2.draws := by
  unfold drawRxBlock
  split <;> rfl

/-- What `DMA_BLOCK` does on a read. -/
theorem moveBlock_read (h : (s.chan p).dirn = .rx) : moveBlock p s =
    ((s.setDraws (drawRxBlock (s.chan p).blockSize s).2.draws).setMem
      (memWrite s.mem (s.chan p).addr (drawRxBlock (s.chan p).blockSize s).1)).modChan p
      (Chan.moveBlock (drawRxBlock (s.chan p).blockSize s).1.length) := by
  rw [← drawRxBlock_state]
  simp [moveBlock, h]

/-! ### The obligation -/

theorem exec_dmaBlock_refused (hs : s.cfg.strategy ≠ .cpuOnly) (h : ¬ s.canMoveBlock p = true) :
    exec (.dmaBlock p.fport) s = .refused .notEnabled := by
  simp only [exec, execDmaBlock, dma?_fport, if_neg hs, if_neg h]

/-- Settles O40: the engine moves a block exactly while it is enabled; the packets of a write are read out of memory,
and the bytes of a read go there by `MemWrite`. -/
theorem dmaBlock : Obligations.DmaBlock := by
  refine fun p s hs => ⟨fun h => exec_dmaBlock_refused hs (mt canMoveBlock_iff.1 h), fun h hdir => ?_, fun h hdir => ?_⟩
  all_goals
    have hexec := exec_dmaBlock hs (canMoveBlock_iff.2 h)
    obtain ⟨-, harmed, hdone, hcrb, -⟩ := h
  · rw [moveBlock_write hdir, State.dmaPackets, blockPackets_memRead] at hexec
    refine ⟨_, hexec, by simp, ?_, fun q hq => by simp [hq.symm], by cases p <;> rfl⟩
    simp [Chan.moveBlock_running harmed hdone hcrb]
  · have hlen := drawRxBlock_length_le (s := s) (s.chan p).blockSize
    rw [moveBlock_read hdir] at hexec
    refine ⟨_, _, hexec, rfl, hlen, fun k hk _ hmax => ?_, fun a ha => ?_, ?_, fun q hq => by simp [hq.symm], by simp,
      by cases p <;> rfl⟩
    · simpa using read_memWrite_inside s.mem _ _ k hk hmax
    · simpa using read_memWrite_outside s.mem _ _ a ha
    · simp [Chan.moveBlock_running harmed hdone hcrb hlen]

end Sys2Proof.Machine
end

section
/-! SUPPORT. What the environment may write (R230): a `Hw` step no more than what it reports, the DMA engine no more
than memory or packets, and its own descriptor. -/

namespace Sys2Proof.Machine

variable {instr : Instr} {s t : State} {i : PipeId} {p : DPort} {x : Source} {idx : BitVec 8}

/-! ### The changes -/

/-- What R230 allows a step `i` of `Hw` or `Dma` from `s` to `t`. -/
structure EnvWrites (i : Instr) (s t : State) : Prop where
  sts : ∀ x, s.sts x = true → t.sts x = true
  enb : ∀ x, t.enb x = s.enb x
  pipe : ∀ j, t.pipe j =
    { s.pipe j with rxFifo := (t.pipe j).rxFifo, pid := (t.pipe j).pid, toggle := (t.pipe j).toggle }
  pid : ∀ j, (t.pipe j).pid = (s.pipe j).pid ∨ ((s.pipe j).pid = .buf ∧ (t.pipe j).pid = .stall)
  port : ∀ p, t.port p = s.port p
  chan : ∀ p, t.chan p =
    { s.chan p with
      crb := (t.chan p).crb, lastLen := (t.chan p).lastLen, addr := (t.chan p).addr, armed := (t.chan p).armed,
      done := (t.chan p).done }
  link : ∀ k, t.link k = s.link k
  ctrl : t.ctrl = { s.ctrl with setup := t.ctrl.setup }
  mem : t.mem = s.mem ∨ ∃ p : DPort, i = .dmaBlock p.fport ∧ (s.chan p).dirn = .rx
  txLog : t.txLog = s.txLog ∨ ∃ p : DPort, i = .dmaBlock p.fport ∧ (s.chan p).dirn = .tx
  logs : t.fifoLog = s.fifoLog ∧ t.evLog = s.evLog ∧ t.timeLog = s.timeLog ∧ t.cbLog = s.cbLog ∧
    t.setupLog = s.setupLog

/-- What a `Hw` step may do to a pipe record before the toggle bits are drawn: a packet arrives, or the pipe stalls. -/
structure Pipe.HwChange (a b : Pipe) : Prop where
  record : b = { a with rxFifo := b.rxFifo, pid := b.pid }
  pid : b.pid = a.pid ∨ (a.pid = .buf ∧ b.pid = .stall)

theorem Pipe.HwChange.refl (a : Pipe) : a.HwChange a := ⟨rfl, .inl rfl⟩

theorem Pipe.SameButToggle.eq {a b : Pipe} (h : a.SameButToggle b) : a = { b with toggle := a.toggle } :=
  (congrArg (fun q : Pipe => { q with toggle := a.toggle }) h :)

/-! ### The steps of `Hw` -/

theorem Reports.envWrites {c : Ctrl} {q : PipeId → Pipe} (h : Reports x s c q t)
    (hc : c = { s.ctrl with setup := c.setup }) (hq : ∀ j, (s.pipe j).HwChange (q j)) : EnvWrites instr s t := by
  obtain ⟨hw, rfl, hpipe⟩ := h
  have hpid j : (t.pipe j).pid = (q j).pid := (hpipe j).field Pipe.pid
  have hfifo j : (t.pipe j).rxFifo = (q j).rxFifo := (hpipe j).field Pipe.rxFifo
  exact {
    sts := fun y hy => by rw [hw.sts, hy, Bool.true_or]
    enb := hw.enb
    pipe := fun j => by
      rw [hpid, hfifo]
      exact (hpipe j).eq.trans (congrArg (fun r : Pipe => { r with toggle := (t.pipe j).toggle }) (hq j).record)
    pid := fun j => hpid j ▸ (hq j).pid
    port := hw.ports
    chan := fun p => by rw [hw.chans]
    link := hw.links
    ctrl := hc
    mem := .inl hw.mem
    txLog := .inl hw.logs.1
    logs := hw.logs.2 }

theorem envWrites_raise (x : Source) : EnvWrites instr s (raise x s) :=
  (reports_raise x s).envWrites rfl fun j => .refl (s.pipe j)

theorem envWrites_raise_modPipe (x : Source) {f : Pipe → Pipe} (hf : (s.pipe i).HwChange (f (s.pipe i))) :
    EnvWrites instr s (raise x (s.modPipe i f)) := by
  refine (reports_raise_modPipe x s i f).envWrites rfl fun j => ?_
  split
  · next h => exact h ▸ hf
  · exact .refl (s.pipe j)

theorem execHwRxPacket_envWrites (bs : List Byte) : NextMeets (EnvWrites instr s) (execHwRxPacket idx bs s) := by
  unfold execHwRxPacket
  split
  · exact nextMeets_refused _
  · exact hwPipeStep_meets fun j => envWrites_raise_modPipe (.brdy j) ⟨rfl, .inl rfl⟩

theorem execHwStall_envWrites : NextMeets (EnvWrites instr s) (execHwStall idx s) := by
  refine hwPipeStep_meets_enabled fun j hj => envWrites_raise_modPipe (.nrdy j) ⟨rfl, .inr ⟨?_, rfl⟩⟩
  obtain ⟨-, -, hpid⟩ := canRespond_iff.1 hj
  exact hpid

theorem execHwSetup_envWrites (bs : List Byte) : NextMeets (EnvWrites instr s) (execHwSetup bs s) := by
  unfold execHwSetup
  split <;> [skip; split]
  · exact nextMeets_refused _
  · exact nextMeets_refused _
  · exact nextMeets_next.2 ((reports_raise_modCtrl .setup s _).envWrites rfl fun j => .refl (s.pipe j))

theorem execHwStatusDone_envWrites : NextMeets (EnvWrites instr s) (execHwStatusDone s) := by
  unfold execHwStatusDone
  split <;> [skip; split]
  · exact nextMeets_refused _
  · exact nextMeets_refused _
  · exact nextMeets_next.2 (envWrites_raise .stsdone)

theorem execHwSeqErr_envWrites : NextMeets (EnvWrites instr s) (execHwSeqErr s) := by
  unfold execHwSeqErr
  split
  · exact nextMeets_refused _
  · exact nextMeets_next.2 (envWrites_raise .seqerr)

/-! ### The DMA engine -/

/-- The channel fields the engine writes. -/
theorem modChan_moveBlock_chan (n : Nat) (q : DPort) : (s.modChan p (Chan.moveBlock n)).chan q =
    { s.chan q with
      crb := ((s.modChan p (Chan.moveBlock n)).chan q).crb
      lastLen := ((s.modChan p (Chan.moveBlock n)).chan q).lastLen
      addr := ((s.modChan p (Chan.moveBlock n)).chan q).addr
      armed := ((s.modChan p (Chan.moveBlock n)).chan q).armed
      done := ((s.modChan p (Chan.moveBlock n)).chan q).done } := by
  cases p <;> cases q <;> rfl

theorem moveBlock_envWrites (p : DPort) : EnvWrites (.dmaBlock p.fport) s (moveBlock p s) := by
  cases hdir : (s.chan p).dirn with
  | tx =>
    rw [moveBlock_write hdir]
    constructor
    case chan => exact modChan_moveBlock_chan (s := s.addTx _) _
    case txLog => exact .inr ⟨p, rfl, hdir⟩
    all_goals simp
  | rx =>
    rw [moveBlock_read hdir]
    constructor
    case chan => exact modChan_moveBlock_chan (s := (s.setDraws _).setMem _) _
    case mem => exact .inr ⟨p, rfl, hdir⟩
    all_goals simp

theorem dma?_eq_some {f : FPort} (h : f.dma? = some p) : f = p.fport := by
  cases f <;> cases h <;> rfl

theorem execDmaBlock_envWrites (f : FPort) : NextMeets (EnvWrites (.dmaBlock f) s) (execDmaBlock f s) := by
  unfold execDmaBlock
  split
  · exact nextMeets_refused _
  · next p hf =>
    obtain rfl := dma?_eq_some hf
    split <;> [skip; split]
    · exact nextMeets_refused _
    · exact nextMeets_next.2 (moveBlock_envWrites p)
    · exact nextMeets_refused _

/-! ### Every environment step -/

theorem exec_envWrites (i : Instr) (hi : i.format = .env) : NextMeets (EnvWrites i s) (exec i s) := by
  cases i with
  | hwRxPacket idx bs => exact execHwRxPacket_envWrites bs
  | hwTxReady idx => exact hwPipeStep_meets fun j => envWrites_raise (.brdy j)
  | hwNotReady idx => exact hwPipeStep_meets fun j => envWrites_raise (.nrdy j)
  | hwStall idx => exact execHwStall_envWrites
  | hwBufEmpty idx => exact hwPipeStep_meets fun j => envWrites_raise (.bemp j)
  | hwAttach idx => exact hwLinkStep_meets fun k => envWrites_raise (.attach k)
  | hwDetach idx => exact hwLinkStep_meets fun k => envWrites_raise (.detach k)
  | hwLinechg idx => exact hwLinkStep_meets fun k => envWrites_raise (.linechg k)
  | hwSetup bs => exact execHwSetup_envWrites bs
  | hwStatusDone => exact execHwStatusDone_envWrites
  | hwSeqErr => exact execHwSeqErr_envWrites
  | dmaBlock f => exact execDmaBlock_envWrites f
  | _ => cases hi

/-- Settles O13: a `Hw` step changes no more than its report, and the engine no more than memory or the packets, and its
descriptor. -/
theorem environmentWrites : Obligations.EnvironmentWrites := by
  intro i s t hi ht
  have h := exec_envWrites i hi t ht
  exact ⟨h.sts, h.enb, h.pipe, h.pid, h.port, h.chan, h.link, h.ctrl, h.mem, h.txLog, h.logs⟩

end Sys2Proof.Machine
end

section
/-! SUPPORT. The ledger of requests (R251): an operation leaves it balanced when each callback it makes is that of a
request outstanding until then, and the requests it does not end stay outstanding. -/

namespace Sys2Proof.Machine

variable {s t u : State} {j : PipeId} {d : Dir}

/-! ### The ledger, pipe by pipe -/

/-- The requests outstanding on pipe `j` (R28). -/
def State.outstanding (s : State) (j : PipeId) : List (Word × PipeId) :=
  (s.pipe j).pending j .rx ++ (s.pipe j).pending j .tx

/-- The request that a callback ends (R46). -/
def CbEntry.request (e : CbEntry) : Word × PipeId := (e.cb, e.pipe)

theorem ledger_eq : s.ledger = s.cbLog.map CbEntry.request ++ allPipes.flatMap s.outstanding := rfl

/-- The ledger with the outstanding requests of pipe `j` in front. -/
theorem ledger_perm (j : PipeId) : s.ledger.Perm
    (s.cbLog.map CbEntry.request ++ (s.outstanding j ++ (allPipes.erase j).flatMap s.outstanding)) :=
  ((List.perm_cons_erase (mem_allPipes j)).flatMap_right s.outstanding).append_left _

/-- One pipe changes and callbacks are added: the ledger gains the requests `l` if that pipe and the callbacks do. -/
theorem ledger_perm_of_pipe {m : List CbEntry} {l : List (Word × PipeId)} (hp : ∀ k, k ≠ j → t.pipe k = s.pipe k)
    (hc : t.cbLog = s.cbLog ++ m)
    (hj : (m.map CbEntry.request ++ t.outstanding j).Perm (l ++ s.outstanding j)) :
    t.ledger.Perm (l ++ s.ledger) := by
  have hrest : (allPipes.erase j).flatMap t.outstanding = (allPipes.erase j).flatMap s.outstanding :=
    List.flatMap_congr fun k hk => by
      have hkj : k ≠ j := ((List.Nodup.mem_erase_iff (by decide)).1 hk).1
      simp only [State.outstanding, hp k hkj]
  refine (ledger_perm j).trans (.trans ?_ ((ledger_perm j).symm.append_left l))
  rw [hc, hrest, List.perm_iff_count]
  intro x
  have hx := hj.count_eq x
  simp only [List.map_append, List.count_append] at hx ⊢
  omega

/-! ### Slots and their requests -/

theorem pending_of_idle {q : Pipe} (h : (q.slot d).state = .idle) : q.pending j d = [] := if_pos h

theorem pending_of_busy {q : Pipe} (h : (q.slot d).state ≠ .idle) : q.pending j d = [((q.slot d).cb, j)] := if_neg h

theorem pending_ne_nil {q : Pipe} : q.pending j d ≠ [] ↔ (q.slot d).state ≠ .idle := by
  unfold Pipe.pending
  split <;> simp [*]

theorem pending_congr {q q' : Pipe} (h : q'.slot d = q.slot d) : q'.pending j d = q.pending j d := by
  simp only [Pipe.pending, h]

/-- The two slots of a pipe in either order. -/
theorem outstanding_perm (d : Dir) :
    (s.outstanding j).Perm ((s.pipe j).pending j d ++ (s.pipe j).pending j d.other) := by
  cases d with
  | rx => exact .refl _
  | tx => exact List.perm_append_comm

/-! ### Nothing happens to any request -/

/-- No callback is added, and every slot is outstanding with the request it was. -/
structure SameRequests (s t : State) : Prop where
  cbLog : t.cbLog = s.cbLog
  pending : ∀ k e, (t.pipe k).pending k e = (s.pipe k).pending k e

theorem SameRequests.refl (s : State) : SameRequests s s := ⟨rfl, fun _ _ => rfl⟩

theorem SameRequests.trans (h : SameRequests s t) (g : SameRequests t u) : SameRequests s u :=
  ⟨g.cbLog.trans h.cbLog, fun k e => (g.pending k e).trans (h.pending k e)⟩

theorem SameRequests.of_slots (hc : t.cbLog = s.cbLog := by simp)
    (hp : ∀ k e, (t.pipe k).slot e = (s.pipe k).slot e := by simp) : SameRequests s t :=
  ⟨hc, fun k e => pending_congr (hp k e)⟩

theorem SameRequests.modPipe (j : PipeId) (f : Pipe → Pipe)
    (hf : ∀ e, (f (s.pipe j)).pending j e = (s.pipe j).pending j e := by intro e; cases e <;> rfl) :
    SameRequests s (s.modPipe j f) where
  cbLog := rfl
  pending k e := by
    rw [modPipe_pipe]
    split
    · next h => exact h ▸ hf e
    · rfl

theorem OnlyLink.sameRequests {k : PortId} (h : OnlyLink k s t) : SameRequests s t :=
  .of_slots h.cbLog fun i _ => by rw [h.pipes i]

theorem EnvWrites.sameRequests {i : Instr} (h : EnvWrites i s t) : SameRequests s t := by
  obtain ⟨-, -, -, hcb, -⟩ := h.logs
  exact .of_slots hcb fun k e => by rw [h.pipe k]; cases e <;> rfl

theorem Released.sameRequests (h : Released j s t) : SameRequests s t where
  cbLog := h.data.cbLog
  pending k e := by
    by_cases hk : k = j
    · subst hk; rw [h.record]; cases e <;> rfl
    · rw [h.frame.pipes k hk]

@[simp] theorem acquirePort_cbLog (f : FPort) : (acquirePort j f s).2.cbLog = s.cbLog := by
  by_cases hc : s.CanAcquire j f
  · exact (acquirePort_acquired f hc).cbLog
  · exact congrArg (·.cbLog) (acquirePort_failed f hc).2.rest

@[simp] theorem acquirePort_slot (f : FPort) (k : PipeId) (e : Dir) :
    ((acquirePort j f s).2.pipe k).slot e = (s.pipe k).slot e := by
  by_cases hc : s.CanAcquire j f
  · rw [(acquirePort_acquired f hc).pipe]
  · have hr : PortRefused j f s (acquirePort j f s).2 := (acquirePort_failed f hc).2
    by_cases hk : k = j
    · subst hk; rw [hr.pipe]; cases e <;> rfl
    · rw [hr.pipes k hk]

theorem acquirePort_sameRequests (f : FPort) : SameRequests s (acquirePort j f s).2 := .of_slots

theorem advanceSlot_sameRequests (j : PipeId) (d : Dir) (n : Nat) : SameRequests s (advanceSlot j d n s) :=
  .modPipe j _ fun e => by cases d <;> cases e <;> rfl

theorem commit_sameRequests (p : FPort) (j : PipeId) (b : Bool) : SameRequests s (commit p j b s) :=
  .of_slots (by simp [commit]) (by simp [commit])

theorem fifoWrite_sameRequests (p : FPort) (bs : List Byte) : SameRequests s (fifoWrite p bs s) :=
  .of_slots (by simp [fifoWrite, logFifo]) (by simp [fifoWrite, logFifo])

theorem fifoRead_sameRequests (p : FPort) (j : PipeId) (n : Nat) : SameRequests s (fifoRead p j n s).2 :=
  (SameRequests.of_slots (t := logFifo p .r _ s) (by simp [logFifo]) (by simp [logFifo])).trans
    (.modPipe j fun q => { q with rxFifo := none })

/-! ### Requests end -/

/-- Ended and outstanding requests together are those there were (R251). -/
def Balanced (s t : State) : Prop := t.ledger.Perm s.ledger

theorem Balanced.trans (h : Balanced s t) (g : Balanced t u) : Balanced s u := List.Perm.trans g h

theorem SameRequests.balanced (h : SameRequests s t) : Balanced s t := by
  have hout : t.outstanding = s.outstanding := funext fun k => by simp only [State.outstanding, h.pending]
  unfold Balanced
  rw [ledger_eq, ledger_eq, h.cbLog, hout]

theorem Balanced.refl (s : State) : Balanced s s := List.Perm.refl _

/-- After a balanced change nothing more happens to any request. -/
theorem Balanced.same (h : Balanced s t) (hc : u.cbLog = t.cbLog := by simp)
    (hp : ∀ k e, (u.pipe k).slot e = (t.pipe k).slot e := by simp) : Balanced s u :=
  h.trans (SameRequests.of_slots hc hp).balanced

theorem Balanced.returns (h : Balanced s t) (r : Status) : Balanced s (t.returns r) := h.same rfl fun _ _ => rfl

theorem Balanced.modPipe (h : Balanced s t) (j : PipeId) (f : Pipe → Pipe)
    (hf : ∀ e, (f (t.pipe j)).pending j e = (t.pipe j).pending j e := by intro e; cases e <;> rfl) :
    Balanced s (t.modPipe j f) :=
  h.trans (SameRequests.modPipe j f hf).balanced

/-- The normal end of an outstanding request moves it from its slot to the log (R130). -/
theorem Completed.balanced {r : Result} (h : Completed j d r s t) (hb : (s.pipe j).pending j d ≠ []) :
    Balanced s t := by
  have hslot (e : Dir) : (t.pipe j).slot e = ((s.pipe j).setSlot d Slot.empty).slot e := by
    rw [h.record]; cases e <;> rfl
  have hended : (t.pipe j).pending j d = [] := pending_of_idle (by rw [hslot, slot_setSlot, if_pos rfl]; rfl)
  have hother : (t.pipe j).pending j d.other = (s.pipe j).pending j d.other :=
    pending_congr (by rw [hslot, slot_setSlot, if_neg (by cases d <;> decide)])
  refine ledger_perm_of_pipe (l := []) h.frame.pipes h.callbacks ?_
  refine ((outstanding_perm d).append_left _).trans (.trans ?_ (outstanding_perm d).symm)
  rw [hended, hother, pending_of_busy (pending_ne_nil.1 hb)]
  exact .refl _

theorem map_request_endingOf (r : Result) : (endingOf j d r s).map CbEntry.request = (s.pipe j).pending j d := by
  simp only [endingOf, Pipe.pending]
  split <;> rfl

/-- A forced termination moves every outstanding request of the pipe to the log (R130). -/
theorem Terminated.balanced {r : Result} (h : Terminated j r s t) : Balanced s t := by
  have hempty (e : Dir) : (t.pipe j).pending j e = [] := by
    refine pending_of_idle ?_
    rw [h.emptied]
    split
    · assumption
    · rfl
  refine ledger_perm_of_pipe (l := []) h.frame.pipes h.callbacks ?_
  simp only [State.outstanding, hempty, endings, List.map_append, map_request_endingOf, List.append_nil,
    List.nil_append]
  exact (outstanding_perm _).symm

theorem Ended.balanced {r : Result} (h : Ended j r s t) : Balanced s t := by
  unfold Ended at h
  split at h
  · exact h.balanced
  · exact h ▸ .refl s

protected theorem Balanced.terminateAll (h : Balanced s t) (j : PipeId) (r : Result)
    (hr : r ≠ .exact ∧ r ≠ .shortPacket := by decide) : Balanced s (terminateAll j r t) :=
  h.trans (terminateAll_terminated r hr).balanced

protected theorem Balanced.terminateIfBusy (h : Balanced s t) (j : PipeId) (r : Result)
    (hr : r ≠ .exact ∧ r ≠ .shortPacket := by decide) : Balanced s (terminateIfBusy j r t) :=
  h.trans (terminateIfBusy_ended r hr).balanced

protected theorem Balanced.releasePipe (h : Balanced s t) (j : PipeId) : Balanced s (releasePipe j t) :=
  (h.terminateIfBusy j .stopped).trans releasePipe_released.sameRequests.balanced

theorem SameRequests.complete (h : SameRequests s t) (hb : (s.pipe j).pending j d ≠ []) (r : Result) :
    Balanced s (complete j d r t) :=
  h.balanced.trans ((complete_completed d r).balanced (h.pending j d ▸ hb))

/-! ### The CPU path -/

theorem writeOwned_balanced (hb : (s.pipe j).pending j .tx ≠ []) : Balanced s (writeOwned j s) := by
  have hchunk (n : Nat) (bs : List Byte) (v : Bool) :
      SameRequests s (commit .c j v (advanceSlot j .tx n (fifoWrite .c bs s))) :=
    ((fifoWrite_sameRequests .c bs).trans (advanceSlot_sameRequests j .tx n)).trans (commit_sameRequests .c j v)
  simp only [writeOwned]
  split
  · exact (hchunk _ _ false).balanced
  · split
    · exact ((hchunk _ _ false).trans (commit_sameRequests .c j true)).complete hb .exact
    · exact (hchunk _ _ true).complete hb .exact

theorem writeChunk_balanced (hb : (s.pipe j).pending j .tx ≠ []) : Balanced s (writeChunk j s) := by
  have hport : SameRequests s (acquirePort j .c s).2 := acquirePort_sameRequests .c
  simp only [writeChunk]
  split
  · exact hport.balanced.trans (writeOwned_balanced (hport.pending j .tx ▸ hb))
  · exact hport.balanced.terminateAll j .portWedged

theorem readOwned_balanced (pkt : List Byte) (hb : (s.pipe j).pending j .rx ≠ []) : Balanced s (readOwned j pkt s) := by
  have hread (n : Nat) (m : Memory) : SameRequests s (advanceSlot j .rx n ((fifoRead .c j n s).2.setMem m)) :=
    ((fifoRead_sameRequests .c j n).trans .of_slots).trans (advanceSlot_sameRequests j .rx n)
  simp only [readOwned]
  split
  · exact (hread _ _).complete hb .overrun
  · split
    · exact (hread _ _).complete hb .exact
    · split
      · exact (hread _ _).complete hb .shortPacket
      · exact (hread _ _).balanced

theorem readChunk_balanced (hb : (s.pipe j).pending j .rx ≠ []) : Balanced s (readChunk j s) := by
  have hport : SameRequests s (acquirePort j .c s).2 := acquirePort_sameRequests .c
  simp only [readChunk]
  split
  · exact .refl s
  · split
    · exact hport.balanced.trans (readOwned_balanced _ (hport.pending j .rx ▸ hb))
    · exact hport.balanced.terminateAll j .portWedged

theorem handleBrdy_balanced (j : PipeId) : Balanced s (handleBrdy j s) := by
  have hclear : SameRequests s (s.modPipe j fun q => { q with ignoreCnt := 0 }) := .modPipe j _
  simp only [handleBrdy]
  split
  · exact .refl s
  · next harmed =>
    have hb : (s.pipe j).pending j (s.route j) ≠ [] := pending_ne_nil.2 (by simp_all)
    split
    · next hr => exact hclear.balanced.trans (writeChunk_balanced (hclear.pending j .tx ▸ hr ▸ hb))
    · next hr => exact hclear.balanced.trans (readChunk_balanced (hclear.pending j .rx ▸ hr ▸ hb))

theorem handleNrdy_balanced (j : PipeId) : Balanced s (handleNrdy j s) := by
  have hcount : Balanced s (s.modPipe j fun q => { q with ignoreCnt := q.ignoreCnt + 1 }) :=
    (Balanced.refl s).modPipe j _
  simp only [handleNrdy]
  split
  · exact .refl s
  · split
    · exact (Balanced.refl s).terminateAll j .stall
    · split
      · exact (Balanced.refl s).terminateAll j .notReadyExceeded
      · split
        · exact hcount.terminateAll j .notReadyExceeded
        · exact (hcount.same (u := delay _ _)).modPipe j fun q => { q with pid := .buf }

theorem pushFirst_balanced (hb : (s.pipe j).pending j d ≠ []) : Balanced s (pushFirst j d s) := by
  unfold pushFirst
  split
  · next h => exact writeChunk_balanced (h.1 ▸ hb)
  · exact .refl s

/-! ### `DMA_IRQ` -/

theorem dmaAccount_sameRequests (p : DPort) : SameRequests s (dmaAccount p s) :=
  (advanceSlot_sameRequests (s.chan p).pipe (s.chan p).dirn (s.chan p).moved).trans
    (.of_slots (by simp [dmaAccount]) (by simp [dmaAccount]))

/-- The one-shot transfer of the remainder is the same request (R155, R156). -/
theorem OneShot.sameRequests (h : OneShot j d s t) (hb : (s.pipe j).pending j d ≠ []) : SameRequests s t where
  cbLog := h.data.cbLog
  pending k e := by
    by_cases hk : k = j
    · subst hk
      by_cases he : d = e
      · subst he
        rw [h.record, pending_of_busy (pending_ne_nil.1 hb), pending_of_busy (by simp)]
        simp
      · exact pending_congr (by rw [h.record, slot_setSlot, if_neg he])
    · rw [h.frame.pipes k hk]

theorem dmaRemainder_balanced (hb : (s.pipe j).pending j d ≠ []) : Balanced s (dmaRemainder j d s) := by
  have hport : SameRequests s (acquirePort j .c s).2 := acquirePort_sameRequests .c
  by_cases hc : s.CanAcquire j .c
  · have harm := hport.trans (armOneShot_oneShot.sameRequests (hport.pending j d ▸ hb))
    rw [dmaRemainder_acquired hc]
    exact harm.balanced.trans (pushFirst_balanced (harm.pending j d ▸ hb))
  · rw [dmaRemainder_refused hc]
    exact hport.balanced.terminateAll j .portWedged

theorem dmaEnd_balanced (p : DPort) (hb : (s.pipe j).pending j d ≠ []) : Balanced s (dmaEnd p j d s) := by
  have hport : SameRequests s (acquirePort j p.fport s).2 := acquirePort_sameRequests p.fport
  cases d with
  | rx => exact (SameRequests.refl s).complete hb .exact
  | tx =>
    simp only [dmaEnd]
    split
    · exact (hport.trans (commit_sameRequests p.fport j true)).complete hb .exact
    · exact hport.balanced.terminateAll j .portWedged

theorem dmaComplete_balanced (p : DPort) {c : Chan} (hb : (s.pipe c.pipe).pending c.pipe c.dirn ≠ [])
    (hw : ¬ (c.dirn = .tx ∧ c.full = false)) : Balanced s (dmaComplete p c s) := by
  have hacc : SameRequests s (dmaAccount p s) := dmaAccount_sameRequests p
  have hbacc : ((dmaAccount p s).pipe c.pipe).pending c.pipe c.dirn ≠ [] := hacc.pending _ _ ▸ hb
  simp only [dmaComplete]
  split
  · next hf =>
    have hd : c.dirn = .rx := by cases hd : c.dirn <;> simp_all
    exact hacc.complete (hd ▸ hb) .shortPacket
  · split
    · exact hacc.balanced.trans (dmaRemainder_balanced hbacc)
    · exact hacc.balanced.trans (dmaEnd_balanced p hbacc)

theorem dmaIrq_balanced (p : DPort) : NextMeets (Balanced s) (dmaIrq p s) := by
  have hdone : SameRequests s (takeDmaDone p s) := .of_slots (by simp [takeDmaDone]) (by simp [takeDmaDone])
  by_cases hlive : s.dmaLive p
  · by_cases hw : (s.chan p).dirn = .tx ∧ (s.chan p).full = false
    · rw [dmaIrq_incomplete hlive hw.1 hw.2]
      exact nextMeets_fault _
    · have hb : (s.pipe (s.chan p).pipe).pending (s.chan p).pipe (s.chan p).dirn ≠ [] := by
        obtain ⟨-, harmed, -⟩ := hlive
        exact pending_ne_nil.2 (by simp [harmed])
      rw [dmaIrq_live hlive hw]
      exact nextMeets_next.2 (hdone.balanced.trans (dmaComplete_balanced p (hdone.pending _ _ ▸ hb) hw))
  · rw [dmaIrq_stale hlive]
    exact nextMeets_next.2 hdone.balanced

/-! ### The host link, control requests and the dispatcher -/

theorem Balanced.foldl {α : Type} {f : State → α → State} (hf : ∀ u a, Balanced u (f u a)) (l : List α) (s : State) :
    Balanced s (l.foldl f s) := by
  induction l generalizing s with
  | nil => exact .refl s
  | cons a l ih => exact (hf s a).trans (ih _)

theorem detachPipe_balanced (a : BitVec 7) (s : State) (j : PipeId) : Balanced s (detachPipe a s j) := by
  cases h : s.boundTo a j with
  | true => rw [detachPipe_hit h]; exact ((Balanced.refl s).releasePipe j).modPipe j _
  | false => rw [detachPipe_miss h]; exact .refl s

theorem handleDetach_balanced (k : PortId) : Balanced s (handleDetach k s) := by
  simp only [handleDetach]
  split
  · exact .refl s
  · exact (Balanced.foldl (detachPipe_balanced ((s.link k).dev.getD 0)) allPipes s).same

theorem handleSetup_balanced : Balanced s (handleSetup s) :=
  (((Balanced.refl s).terminateIfBusy 0 .stopped).modPipe 0 fun q => { q with pid := .nak }).same rfl fun _ _ => rfl

theorem stallControl_balanced (r : Result) (hr : r ≠ .exact ∧ r ≠ .shortPacket := by decide) :
    Balanced s (stallControl r s) :=
  (((Balanced.refl s).terminateIfBusy 0 r hr).modPipe 0 fun q => { q with pid := .stall }).same rfl fun _ _ => rfl

theorem handleStsdone_balanced : Balanced s (handleStsdone s) := by
  unfold handleStsdone
  split
  · exact ((Balanced.refl s).modPipe 0 fun q => { q with pid := .nak }).same rfl fun _ _ => rfl
  · exact .refl s

theorem ctrlAck_balanced : Balanced s (ctrlAck s) := by
  unfold ctrlAck
  split
  · exact (Balanced.refl s).returns _
  · exact ((Balanced.refl s).modPipe 0 fun q => { q with pid := .buf }).same rfl fun _ _ => rfl

theorem handler_balanced (x : Source) : Balanced s (handler x s) := by
  cases x with
  | brdy j => exact handleBrdy_balanced j
  | bemp j => exact .refl s
  | nrdy j => exact handleNrdy_balanced j
  | attach k => exact (onlyLink_handleAttach.2 (.refl k s)).sameRequests.balanced
  | detach k => exact handleDetach_balanced k
  | linechg k => exact (onlyLink_handleLinechg.2 (.refl k s)).sameRequests.balanced
  | setup => exact handleSetup_balanced
  | stsdone => exact handleStsdone_balanced
  | seqerr => exact stallControl_balanced .stall

theorem deliver_balanced (s : State) (x : Source) : Balanced s (deliver s x) := by
  unfold deliver
  split
  · exact ((Balanced.refl s).same (u := s.setSts x false)).trans (handler_balanced x)
  · exact (handler_balanced x).same

theorem dispatch_balanced : Balanced s (dispatch s) :=
  .foldl (fun _ _ => .foldl deliver_balanced _ _) allRegs s

end Sys2Proof.Machine
end

section
/-! SUPPORT. What each operation enters in the ledger of requests (R251): a submission the request it accepts (R120,
R151, R195), every other operation nothing. -/

namespace Sys2Proof.Machine

variable {i : Instr} {s t u : State} {j : PipeId} {d : Dir} {x : Word × PipeId}

/-! ### A request is accepted -/

/-- A submission returned `Ok` and the ledger gained its request, or it returned another status and the ledger gained
nothing. -/
def Submits (x : Word × PipeId) (s t : State) : Prop :=
  (t.ret = some .ok ∧ t.ledger.Perm (x :: s.ledger)) ∨ (t.ret ≠ some .ok ∧ Balanced s t)

theorem submits_returns {r : Status} (hr : r ≠ .ok := by decide) : Submits x s (s.returns r) :=
  .inr ⟨by simpa, (Balanced.refl s).returns r⟩

/-- An idle slot takes a request. -/
theorem ledger_perm_of_arm {y : Slot} (hp : ∀ k, k ≠ j → t.pipe k = s.pipe k) (hc : t.cbLog = s.cbLog)
    (hs : ∀ e, (t.pipe j).slot e = ((s.pipe j).setSlot d y).slot e) (hidle : ((s.pipe j).slot d).state = .idle)
    (hy : y.state ≠ .idle) : t.ledger.Perm ((y.cb, j) :: s.ledger) := by
  have hslot : (t.pipe j).slot d = y := by rw [hs, slot_setSlot, if_pos rfl]
  have harmed : (t.pipe j).pending j d = [(y.cb, j)] := by rw [pending_of_busy (hslot ▸ hy), hslot]
  have hother : (t.pipe j).pending j d.other = (s.pipe j).pending j d.other :=
    pending_congr (by rw [hs, slot_setSlot, if_neg (by cases d <;> decide)])
  refine ledger_perm_of_pipe (m := []) (l := [(y.cb, j)]) hp (by simp [hc]) ?_
  refine (outstanding_perm d).trans (.trans ?_ ((outstanding_perm d).symm.append_left _))
  rw [harmed, hother, pending_of_idle hidle]
  exact .refl _

theorem armCpu_ledger (b l c : Word) (hidle : ((s.pipe j).slot d).state = .idle) :
    (armCpu j d b l c s).ledger.Perm ((c, j) :: s.ledger) := by
  have h : Accepted j d b l c s (armCpu j d b l c s) := armCpu_accepted d b l c
  exact ledger_perm_of_arm (y := cpuSlot b l c) h.frame.pipes h.data.cbLog
    (fun e => by rw [h.record]; cases e <;> rfl) hidle (by simp [cpuSlot])

theorem armDma_ledger (b l c : Word) (p : DPort) (hidle : ((s.pipe j).slot d).state = .idle) :
    (armDma j d b l c p s).ledger.Perm ((c, j) :: s.ledger) := by
  have hpipe (k : PipeId) : (armDma j d b l c p s).pipe k =
      if j = k then (s.pipe j).armDma d b l c p else s.pipe k := by
    simp [armDma]
  refine ledger_perm_of_arm (y := dmaSlot b l c p) (fun k hk => ?_) (by simp [armDma]) (fun e => ?_) hidle
    (by simp [dmaSlot])
  · rw [hpipe, if_neg hk.symm]
  · rw [hpipe, if_pos rfl]
    cases e <;> rfl

theorem startCommon_submits (j : PipeId) (d : Dir) (b l c : Word) : Submits (c, j) s (startCommon j d b l c s) := by
  have hport : SameRequests s (acquirePort j .c s).2 := acquirePort_sameRequests .c
  simp only [startCommon]
  iterate 4 (split <;> [exact submits_returns; skip])
  split
  · exact submits_returns
  · next hidle =>
    split
    · have hidle' : (((acquirePort j .c s).2.pipe j).slot d).state = .idle := by simpa using hidle
      have hslot : (((armCpu j d b l c (acquirePort j .c s).2).pipe j).slot d).state ≠ .idle := by
        rw [(armCpu_accepted d b l c).record]
        cases d <;> simp [Pipe.slot, Pipe.setSlot]
      refine .inl ⟨rfl, ?_⟩
      have hpush : Balanced (armCpu j d b l c (acquirePort j .c s).2) _ := pushFirst_balanced (pending_ne_nil.2 hslot)
      exact List.Perm.trans (hpush.returns .ok) ((armCpu_ledger b l c hidle').trans (hport.balanced.cons _))
    · exact .inr ⟨by simp, (hport.balanced.terminateIfBusy j .portWedged).returns _⟩

theorem dmaStart_submits (j : PipeId) (b l : Word) (p : DPort) (c : Word) :
    Submits (c, j) s (dmaStart j b l p c s) := by
  have hport : SameRequests s (acquirePort j p.fport s).2 := acquirePort_sameRequests p.fport
  simp only [dmaStart]
  iterate 3 (split <;> [exact submits_returns; skip])
  split
  · exact submits_returns
  · next hidle =>
    split
    · exact startCommon_submits j _ b l c
    · split
      · exact submits_returns
      · split
        · have hidle' : (((acquirePort j p.fport s).2.pipe j).slot (s.xdir j)).state = .idle := by simpa using hidle
          exact .inl ⟨rfl, (armDma_ledger b l c p hidle').trans (hport.balanced.cons _)⟩
        · exact .inr ⟨by simp, hport.balanced.returns _⟩

theorem ctrlData_submits (b l c : Word) : Submits (c, 0) s (ctrlData b l c s) := by
  unfold ctrlData
  split
  · exact submits_returns
  · unfold ctrlDataResult
    obtain ⟨hok, hgain⟩ | ⟨hret, hsame⟩ := startCommon_submits (s := s) 0 s.ctrl.dataDir b l c
    · rw [if_neg (not_not.2 hok)]
      exact .inl ⟨hok, hgain⟩
    · rw [if_pos hret]
      exact .inr ⟨hret, hsame⟩

/-! ### Every operation -/

/-- The ledger gains the request that operation `i` submitted, if it returned `Ok`, and nothing else (R251). -/
def Booked (i : Instr) (s t : State) : Prop := ∀ x : Word × PipeId,
  t.ledger.count x = s.ledger.count x + if t.ret = some .ok ∧ i.request? = some (x.1, x.2.val) then 1 else 0

theorem Balanced.booked (h : Balanced s t) (hi : i.request? = none ∨ t.ret ≠ some .ok) : Booked i s t := by
  intro x
  rw [if_neg (by rintro ⟨hok, hreq⟩; simp_all), h.count_eq, Nat.add_zero]

theorem Submits.booked {c : Word} (h : Submits (c, j) s t) (hi : i.request? = some (c, j.val)) : Booked i s t := by
  obtain ⟨hok, hgain⟩ | ⟨hret, hsame⟩ := h
  · intro x
    rw [hgain.count_eq, List.count_cons, hi]
    congr 1
    simp [hok, Prod.ext_iff, Fin.ext_iff]
  · exact hsame.booked (.inr hret)

theorem returns_booked (r : Status) (hr : r ≠ .ok := by decide) : Booked i s (s.returns r) :=
  ((Balanced.refl s).returns r).booked (.inr (by simpa))

theorem execConfigurePipe_balanced (idx : BitVec 8) (ty : TType) (m : UsbDir) (n : BitVec 11) (a : Option (BitVec 7)) :
    NextMeets (Balanced s) (execConfigurePipe idx ty m n a s) := by
  have h : Balanced s s := .refl s
  unfold execConfigurePipe
  split <;> [skip; split <;> [skip; split]] <;> refine nextMeets_next.2 ?_
  · exact h.returns _
  · exact h.returns _
  · exact h.returns _
  · next j _ _ _ => exact ((h.modPipe j (Pipe.configure j ty m n.toNat a)).same).returns .ok

theorem execReleasePipe_balanced (idx : BitVec 8) : NextMeets (Balanced s) (execReleasePipe idx s) := by
  unfold execReleasePipe
  split <;> refine nextMeets_next.2 ?_
  · exact (Balanced.refl s).returns _
  · exact ((Balanced.refl s).releasePipe _).returns .ok

theorem execAcquirePort_balanced (idx : BitVec 8) (f : FPort) : NextMeets (Balanced s) (execAcquirePort idx f s) := by
  have h : Balanced s s := .refl s
  have hport (k : PipeId) : Balanced s (acquirePort k f s).2 := (acquirePort_sameRequests f).balanced
  unfold execAcquirePort acquireResult
  split <;> [skip; split <;> [skip; split <;> [skip; split]]] <;> refine nextMeets_next.2 ?_
  · exact h.returns _
  · exact h.returns _
  · exact h.returns _
  · exact (hport _).returns .ok
  · exact ((hport _).terminateIfBusy _ .portWedged).returns .portWedgedNow

theorem execStop_balanced (idx : BitVec 8) : NextMeets (Balanced s) (execStop idx s) := by
  unfold execStop
  split <;> refine nextMeets_next.2 ?_
  · exact (Balanced.refl s).returns _
  · exact ((Balanced.refl s).terminateIfBusy _ .stopped).returns .ok

theorem execRead_booked (idx : BitVec 8) (b l c : Word) :
    NextMeets (Booked (.read idx b l c) s) (execRead idx b l c s) := by
  unfold execRead
  split <;> refine nextMeets_next.2 ?_
  · exact returns_booked _
  · next j hj => exact (startCommon_submits j .rx b l c).booked (by rw [(pipeOf?_some hj).1]; rfl)

theorem execWrite_booked (idx : BitVec 8) (b l c : Word) :
    NextMeets (Booked (.write idx b l c) s) (execWrite idx b l c s) := by
  unfold execWrite
  split <;> refine nextMeets_next.2 ?_
  · exact returns_booked _
  · next j hj => exact (startCommon_submits j .tx b l c).booked (by rw [(pipeOf?_some hj).1]; rfl)

theorem execDmaStart_booked (idx : BitVec 8) (b l : Word) (f : FPort) (c : Word) :
    NextMeets (Booked (.dmaStart idx b l f c) s) (execDmaStart idx b l f c s) := by
  unfold execDmaStart
  split <;> refine nextMeets_next.2 ?_
  · next j p hj _ =>
    split
    · exact returns_booked _
    · exact (dmaStart_submits j b l p c).booked (by rw [(pipeOf?_some hj).1]; rfl)
  · exact returns_booked _
  · exact returns_booked _

theorem execDmaIrq_balanced (f : FPort) : NextMeets (Balanced s) (execDmaIrq f s) := by
  unfold execDmaIrq
  split <;> [skip; split <;> [skip; split]]
  · exact nextMeets_refused _
  · exact nextMeets_refused _
  · exact nextMeets_refused _
  · exact dmaIrq_balanced _

theorem execUsbIrq_balanced : NextMeets (Balanced s) (execUsbIrq s) := by
  unfold execUsbIrq
  split
  · exact nextMeets_next.2 dispatch_balanced
  · exact nextMeets_refused _

theorem linkHandler_runs (b : BitVec 3) (f : PortId → State) :
    (∃ k, linkHandler b s f = .next (f k)) ∨ ∃ r, linkHandler b s f = .refused r := by
  unfold linkHandler
  split
  · exact .inr ⟨_, rfl⟩
  · split
    · exact .inr ⟨_, rfl⟩
    · exact .inl ⟨_, rfl⟩

theorem ctrlHandler_runs : ctrlHandler s t = .next t ∨ ∃ r, ctrlHandler s t = .refused r := by
  unfold ctrlHandler
  split
  · exact .inr ⟨_, rfl⟩
  · exact .inl rfl

/-- The operation of a handler runs it, or there is no such step (R83, R88). -/
theorem exec_evt (hi : i.format = .evt) (s : State) :
    (∃ y, exec i s = .next (handler y s)) ∨ ∃ r, exec i s = .refused r := by
  cases i with
  | hBrdy p =>
    simp only [exec, execHBrdy]
    split
    · exact .inr ⟨_, rfl⟩
    · next j _ => exact .inl ⟨.brdy j, rfl⟩
  | hBemp p =>
    simp only [exec, execHBemp]
    split
    · exact .inr ⟨_, rfl⟩
    · next j _ => exact .inl ⟨.bemp j, rfl⟩
  | hNrdy p =>
    simp only [exec, execHNrdy]
    split
    · exact .inr ⟨_, rfl⟩
    · next j _ => exact .inl ⟨.nrdy j, rfl⟩
  | hAttach k => exact (linkHandler_runs k _).imp_left fun ⟨j, h⟩ => ⟨.attach j, h⟩
  | hDetach k => exact (linkHandler_runs k _).imp_left fun ⟨j, h⟩ => ⟨.detach j, h⟩
  | hLinechg k => exact (linkHandler_runs k _).imp_left fun ⟨j, h⟩ => ⟨.linechg j, h⟩
  | hSetup => exact ctrlHandler_runs.imp_left fun h => ⟨.setup, h⟩
  | hStsdone => exact ctrlHandler_runs.imp_left fun h => ⟨.stsdone, h⟩
  | hSeqerr => exact ctrlHandler_runs.imp_left fun h => ⟨.seqerr, h⟩
  | _ => cases hi

theorem exec_balanced_of_evt (hi : i.format = .evt) : NextMeets (Balanced s) (exec i s) := by
  obtain ⟨y, h⟩ | ⟨r, h⟩ := exec_evt hi s
  · rw [h]; exact nextMeets_next.2 (handler_balanced y)
  · rw [h]; exact nextMeets_refused r

theorem exec_balanced_of_env (hi : i.format = .env) : NextMeets (Balanced s) (exec i s) :=
  fun t ht => (exec_envWrites i hi t ht).sameRequests.balanced

/-- An operation that submits no request. -/
theorem exec_balanced (i : Instr) (hi : i.request? = none) : NextMeets (Balanced s) (exec i s) := by
  have h : Balanced s s := .refl s
  have hlink {k : PortId} {t : State} (hk : OnlyLink k s t) : Balanced s t := hk.sameRequests.balanced
  cases i with
  | configurePipe idx ty m n a => exact execConfigurePipe_balanced idx ty m n a
  | releasePipe idx => exact execReleasePipe_balanced idx
  | acquirePort idx f => exact execAcquirePort_balanced idx f
  | stop idx => exact execStop_balanced idx
  | linkAttachProcess idx => exact linkCommand_meets h.returns fun k => hlink (k := k) (by simp [OnlyLink.refl])
  | linkBusReset idx => exact linkCommand_meets h.returns fun k => hlink (k := k) (by simp [OnlyLink.refl])
  | linkSuspend idx => exact linkCommand_meets h.returns fun k => hlink (k := k) (by simp [OnlyLink.refl])
  | linkResume idx => exact linkCommand_meets h.returns fun k => hlink (k := k) (by simp [OnlyLink.refl])
  | linkSetAddress idx a => exact linkCommand_meets h.returns fun k => hlink (k := k) (by simp [OnlyLink.refl])
  | ctrlAck => exact ctrlCommand_meets (h.returns _) ctrlAck_balanced
  | ctrlStall => exact ctrlCommand_meets (h.returns _) ((stallControl_balanced .stopped).returns .ok)
  | usbIrq => exact execUsbIrq_balanced
  | dmaIrq f => exact execDmaIrq_balanced f
  | hwRxPacket | hwTxReady | hwNotReady | hwStall | hwBufEmpty | hwAttach | hwDetach | hwLinechg | hwSetup
  | hwStatusDone | hwSeqErr | dmaBlock => exact exec_balanced_of_env rfl
  | hBrdy | hBemp | hNrdy | hAttach | hDetach | hLinechg | hSetup | hStsdone | hSeqerr => exact exec_balanced_of_evt rfl
  | read | write | dmaStart | ctrlData => cases hi

theorem exec_booked (i : Instr) : NextMeets (Booked i s) (exec i s) := by
  by_cases hi : i.request? = none
  · exact fun t ht => (exec_balanced i hi t ht).booked (.inl hi)
  · cases i with
    | read idx b l c => exact execRead_booked idx b l c
    | write idx b l c => exact execWrite_booked idx b l c
    | dmaStart idx b l f c => exact execDmaStart_booked idx b l f c
    | ctrlData b l c => exact ctrlCommand_meets (returns_booked _) ((ctrlData_submits b l c).booked rfl)
    | _ => exact absurd rfl hi

/-- Settles O11: a submission that returns `Ok` enters its request, an end moves one from its slot to the log, and
nothing else touches the ledger. -/
theorem requestsEndExactlyOnce : Obligations.RequestsEndExactlyOnce :=
  fun i _ t ht => exec_booked i t ht

end Sys2Proof.Machine
end

section
/-! SUPPORT. What a command answers (R252, R263): it always returns, and one that does not return `Ok` has changed
nothing, or has found a port wedged. -/

namespace Sys2Proof.Machine

variable {i : Instr} {s t : State} {j : PipeId} {f : FPort}

/-! ### A port is found wedged -/

/-- A failed port clear has marked pipe `j` and may have ended its requests (R104, R252). -/
structure WedgedNow (j : PipeId) (s t : State) : Prop where
  ret : t.ret = some .portWedgedNow
  frame : OnlyPipe j s t
  wedged : (t.pipe j).wedged = true
  mem : t.mem = s.mem
  txLog : t.txLog = s.txLog
  callbacks : t.cbLog = s.cbLog ∨ t.cbLog = s.cbLog ++ endings j .portWedged s

theorem acquirePort_refused_wedged (hc : ¬ s.CanAcquire j f) : ((acquirePort j f s).2.pipe j).wedged = true := by
  rw [(acquirePort_failed f hc).2.pipe]

theorem acquirePort_refused_txLog (hc : ¬ s.CanAcquire j f) : (acquirePort j f s).2.txLog = s.txLog :=
  congrArg (·.txLog) (acquirePort_failed f hc).2.rest

/-- A refused port leaves the requests of the pipe and their order as they were. -/
theorem endings_acquirePort_refused (hc : ¬ s.CanAcquire j f) (r : Result) :
    endings j r (acquirePort j f s).2 = endings j r s := by
  have href : PortRefused j f s (acquirePort j f s).2 := (acquirePort_failed f hc).2
  have hroute : (acquirePort j f s).2.route j = s.route j :=
    route_congr (congrArg (·.cfg) href.rest) (by rw [href.pipe]) (by rw [href.pipe])
  simp only [endings, endingOf, hroute, acquirePort_slot]

/-- The port is refused and the requests go on (R151). -/
theorem wedgedNow_of_refused (hc : ¬ s.CanAcquire j f) :
    WedgedNow j s ((acquirePort j f s).2.returns .portWedgedNow) where
  ret := rfl
  frame := by simp [OnlyPipe.refl]
  wedged := acquirePort_refused_wedged hc
  mem := by simp
  txLog := acquirePort_refused_txLog hc
  callbacks := .inl (by simp)

theorem Ended.wedged {r : Result} (h : Ended j r s t) (hw : (s.pipe j).wedged = true) : (t.pipe j).wedged = true := by
  unfold Ended at h
  split at h
  · exact h.wedged hw
  · rwa [h]

theorem Ended.txLog {r : Result} (h : Ended j r s t) : t.txLog = s.txLog := by
  unfold Ended at h
  split at h
  · exact h.logs.1
  · rw [h]

/-- The port is refused and the outstanding requests end with it (R103, R120). -/
theorem wedgedNow_of_terminated (hc : ¬ s.CanAcquire j f) :
    WedgedNow j s ((terminateIfBusy j .portWedged (acquirePort j f s).2).returns .portWedgedNow) := by
  have hend : Ended j .portWedged (acquirePort j f s).2 (terminateIfBusy j .portWedged (acquirePort j f s).2) :=
    terminateIfBusy_ended .portWedged (by decide)
  constructor
  case ret => rfl
  case frame => simp [OnlyPipe.refl]
  case wedged => exact hend.wedged (acquirePort_refused_wedged hc)
  case mem => simp
  case txLog => exact hend.txLog.trans (acquirePort_refused_txLog hc)
  case callbacks =>
    refine .inr ?_
    rw [returns_cbLog, hend.callbacks, acquirePort_cbLog, endings_acquirePort_refused hc]

/-! ### The answers of a command -/

/-- A command returned `Ok`; or only a status, and nothing else changed; or it found a port wedged (R252). -/
inductive Answers (s t : State) : Prop
  | done (h : t.ret = some .ok)
  | rejected (r : Status) (h : t = s.returns r)
  | wedged (j : PipeId) (h : WedgedNow j s t)

theorem Answers.ret (h : Answers s t) : ∃ r, t.ret = some r := by
  cases h with
  | done h => exact ⟨_, h⟩
  | rejected r h => exact ⟨r, h ▸ rfl⟩
  | wedged j h => exact ⟨_, h.ret⟩

theorem startCommon_answers (j : PipeId) (d : Dir) (b l c : Word) : Answers s (startCommon j d b l c s) := by
  simp only [startCommon]
  iterate 5 (split <;> [exact .rejected _ rfl; skip])
  split
  · exact .done rfl
  · next h => exact .wedged j (wedgedNow_of_terminated fun hc => h ((acquirePort_ok_iff .c).2 hc))

theorem acquireResult_answers (j : PipeId) (f : FPort) : Answers s (acquireResult j (acquirePort j f s)) := by
  unfold acquireResult
  split
  · exact .done rfl
  · next h => exact .wedged j (wedgedNow_of_terminated fun hc => h ((acquirePort_ok_iff f).2 hc))

theorem dmaStart_answers (j : PipeId) (b l : Word) (p : DPort) (c : Word) : Answers s (dmaStart j b l p c s) := by
  simp only [dmaStart]
  iterate 4 (split <;> [exact .rejected _ rfl; skip])
  split
  · exact startCommon_answers j _ b l c
  · split
    · exact .rejected _ rfl
    · split
      · exact .done rfl
      · next h => exact .wedged j (wedgedNow_of_refused fun hc => h ((acquirePort_ok_iff p.fport).2 hc))

theorem linkAttachProcess_answers (k : PortId) : Answers s (linkAttachProcess k s) := by
  unfold linkAttachProcess
  split
  · exact .rejected _ rfl
  · exact .done rfl

theorem linkBusReset_answers (k : PortId) : Answers s (linkBusReset k s) := by
  unfold linkBusReset
  split
  · exact .rejected _ rfl
  · exact .done rfl

theorem linkSuspend_answers (k : PortId) : Answers s (linkSuspend k s) := by
  unfold linkSuspend
  split
  · exact .rejected _ rfl
  · exact .done rfl

theorem linkResume_answers (k : PortId) : Answers s (linkResume k s) := by
  unfold linkResume
  split
  · exact .rejected _ rfl
  · exact .done rfl

theorem linkSetAddress_answers (k : PortId) (a : BitVec 7) : Answers s (linkSetAddress k a s) := by
  unfold linkSetAddress
  split
  · exact .rejected _ rfl
  · split
    · exact .rejected _ rfl
    · exact .done rfl

theorem ctrlAck_answers : Answers s (ctrlAck s) := by
  unfold ctrlAck
  split
  · exact .rejected _ rfl
  · exact .done rfl

theorem ctrlData_answers (b l c : Word) : Answers s (ctrlData b l c s) := by
  unfold ctrlData ctrlDataResult
  split
  · exact .rejected _ rfl
  · split
    · exact startCommon_answers 0 _ b l c
    · next h => exact .done (not_not.1 h)

/-! ### Every command -/

/-- The outcome of a command that returns (R263). -/
def Returned (s : State) (o : Host.Outcome State Fault Refusal) : Prop := ∃ t, o = .next t ∧ Answers s t

theorem Answers.returned (h : Answers s t) : Returned s (.next t) := ⟨t, rfl, h⟩

theorem linkCommand_returned {idx : BitVec 8} {g : PortId → State} (h : ∀ k, Answers s (g k)) :
    Returned s (linkCommand idx s g) := by
  unfold linkCommand
  split <;> refine Answers.returned ?_
  · exact .rejected _ rfl
  · split
    · exact .rejected _ rfl
    · exact h _

theorem ctrlCommand_returned (h : Answers s t) : Returned s (ctrlCommand s t) := by
  refine Answers.returned ?_
  split
  · exact .rejected _ rfl
  · exact h

theorem execConfigurePipe_returned (idx : BitVec 8) (ty : TType) (d : UsbDir) (m : BitVec 11) (a : Option (BitVec 7)) :
    Returned s (execConfigurePipe idx ty d m a s) := by
  unfold execConfigurePipe
  split <;> [skip; split <;> [skip; split]] <;> refine Answers.returned ?_
  · exact .rejected _ rfl
  · exact .rejected _ rfl
  · exact .rejected _ rfl
  · exact .done rfl

theorem execReleasePipe_returned (idx : BitVec 8) : Returned s (execReleasePipe idx s) := by
  unfold execReleasePipe
  split <;> refine Answers.returned ?_
  · exact .rejected _ rfl
  · exact .done rfl

theorem execAcquirePort_returned (idx : BitVec 8) (f : FPort) : Returned s (execAcquirePort idx f s) := by
  unfold execAcquirePort
  split <;> [skip; split <;> [skip; split]] <;> refine Answers.returned ?_
  · exact .rejected _ rfl
  · exact .rejected _ rfl
  · exact .rejected _ rfl
  · exact acquireResult_answers _ f

theorem execRead_returned (idx : BitVec 8) (b l c : Word) : Returned s (execRead idx b l c s) := by
  unfold execRead
  split <;> refine Answers.returned ?_
  · exact .rejected _ rfl
  · exact startCommon_answers _ .rx b l c

theorem execWrite_returned (idx : BitVec 8) (b l c : Word) : Returned s (execWrite idx b l c s) := by
  unfold execWrite
  split <;> refine Answers.returned ?_
  · exact .rejected _ rfl
  · exact startCommon_answers _ .tx b l c

theorem execStop_returned (idx : BitVec 8) : Returned s (execStop idx s) := by
  unfold execStop
  split <;> refine Answers.returned ?_
  · exact .rejected _ rfl
  · exact .done rfl

theorem execDmaStart_returned (idx : BitVec 8) (b l : Word) (f : FPort) (c : Word) :
    Returned s (execDmaStart idx b l f c s) := by
  unfold execDmaStart
  split <;> [split; skip; skip] <;> refine Answers.returned ?_
  · exact .rejected _ rfl
  · exact dmaStart_answers _ b l _ c
  · exact .rejected _ rfl
  · exact .rejected _ rfl

theorem exec_returned (i : Instr) (hi : i.format = .cmd) (s : State) : Returned s (exec i s) := by
  cases i with
  | configurePipe idx ty d m a => exact execConfigurePipe_returned idx ty d m a
  | releasePipe idx => exact execReleasePipe_returned idx
  | acquirePort idx f => exact execAcquirePort_returned idx f
  | read idx b l c => exact execRead_returned idx b l c
  | write idx b l c => exact execWrite_returned idx b l c
  | stop idx => exact execStop_returned idx
  | dmaStart idx b l f c => exact execDmaStart_returned idx b l f c
  | linkAttachProcess idx => exact linkCommand_returned linkAttachProcess_answers
  | linkBusReset idx => exact linkCommand_returned linkBusReset_answers
  | linkSuspend idx => exact linkCommand_returned linkSuspend_answers
  | linkResume idx => exact linkCommand_returned linkResume_answers
  | linkSetAddress idx a => exact linkCommand_returned fun k => linkSetAddress_answers k a
  | ctrlAck => exact ctrlCommand_returned ctrlAck_answers
  | ctrlStall => exact ctrlCommand_returned (.done rfl)
  | ctrlData b l c => exact ctrlCommand_returned (ctrlData_answers b l c)
  | _ => cases hi

/-- Settles O8: each answer of a command holds its status. -/
theorem everyCommandReturns : Obligations.EveryCommandReturns := by
  intro i s hi
  obtain ⟨t, ht, hans⟩ := exec_returned i hi s
  obtain ⟨r, hr⟩ := hans.ret
  exact ⟨t, r, ht, hr⟩

/-- Settles O10: of the answers of a command, the two without `Ok` are the two the statement allows. -/
theorem rejectedCommandChangesNothing : Obligations.RejectedCommandChangesNothing := by
  intro i s t r hi ht hret hr
  obtain ⟨_, hu, hans⟩ := exec_returned i hi s
  obtain rfl : t = _ := Host.Outcome.next.inj (ht.symm.trans hu)
  cases hans with
  | done h => exact absurd (Option.some.inj (hret.symm.trans h)) hr
  | rejected r' h =>
    obtain rfl : r = r' := Option.some.inj (hret.symm.trans (congrArg (·.ret) h))
    exact .inl h
  | wedged j h =>
    exact .inr ⟨Option.some.inj (hret.symm.trans h.ret), j, h.frame, h.wedged, h.mem, h.txLog, h.callbacks⟩

end Sys2Proof.Machine
end

section
/-! SUPPORT. The one model fault (R256): `DMA_IRQ` aside, no operation can fault, and the channel invariant rules out
the state in which `DMA_IRQ` does. -/

namespace Sys2Proof.Machine

variable {i : Instr} {s : State} {f : Fault}

/-! ### Operations that cannot fault -/

/-- The outcome is no fault. -/
def NoFault (o : Host.Outcome State Fault Refusal) : Prop := ∀ f, o ≠ .fault f

@[simp] theorem noFault_next (t : State) : NoFault (.next t) := nofun

@[simp] theorem noFault_refused (r : Refusal) : NoFault (.refused r) := nofun

theorem hwPipeStep_noFault {idx : BitVec 8} {en : PipeId → Bool} {g : PipeId → State} :
    NoFault (hwPipeStep idx s en g) := by
  unfold hwPipeStep
  split
  · simp
  · split <;> simp

theorem hwLinkStep_noFault {idx : BitVec 8} {g : PortId → State} : NoFault (hwLinkStep idx s g) := by
  unfold hwLinkStep
  split
  · simp
  · split <;> simp

theorem execHwRxPacket_noFault (idx : BitVec 8) (bs : List Byte) : NoFault (execHwRxPacket idx bs s) := by
  unfold execHwRxPacket
  split
  · simp
  · exact hwPipeStep_noFault

theorem execHwSetup_noFault (bs : List Byte) : NoFault (execHwSetup bs s) := by
  unfold execHwSetup
  split
  · simp
  · split <;> simp

theorem execHwStatusDone_noFault : NoFault (execHwStatusDone s) := by
  unfold execHwStatusDone
  split
  · simp
  · split <;> simp

theorem execHwSeqErr_noFault : NoFault (execHwSeqErr s) := by
  unfold execHwSeqErr
  split <;> simp

theorem execDmaBlock_noFault (p : FPort) : NoFault (execDmaBlock p s) := by
  unfold execDmaBlock
  split
  · simp
  · split <;> [skip; split] <;> simp

theorem execUsbIrq_noFault : NoFault (execUsbIrq s) := by
  unfold execUsbIrq
  split <;> simp

theorem exec_noFault_of_env (hi : i.format = .env) : NoFault (exec i s) := by
  cases i with
  | hwRxPacket idx bs => exact execHwRxPacket_noFault idx bs
  | hwTxReady | hwNotReady | hwStall | hwBufEmpty => exact hwPipeStep_noFault
  | hwAttach | hwDetach | hwLinechg => exact hwLinkStep_noFault
  | hwSetup bs => exact execHwSetup_noFault bs
  | hwStatusDone => exact execHwStatusDone_noFault
  | hwSeqErr => exact execHwSeqErr_noFault
  | dmaBlock p => exact execDmaBlock_noFault p
  | _ => cases hi

/-- Only `DMA_IRQ` can fault: a command returns, a handler runs or is refused, an environment step is enabled or is
not. -/
theorem exec_noFault (hi : ∀ p, i ≠ .dmaIrq p) : NoFault (exec i s) := by
  cases hf : i.format with
  | cmd =>
    obtain ⟨t, ht, -⟩ := exec_returned i hf s
    simp [ht]
  | env => exact exec_noFault_of_env hf
  | evt => obtain ⟨y, h⟩ | ⟨r, h⟩ := exec_evt hf s <;> simp [h]
  | irq =>
    cases i with
    | usbIrq => exact execUsbIrq_noFault
    | dmaIrq p => exact absurd rfl (hi p)
    | _ => cases hf

/-! ### When `DMA_IRQ` faults -/

/-- A write's DMA-complete interrupt has arrived on a bound channel and the block-aligned prefix is not done. -/
structure State.IncompleteWrite (s : State) (p : DPort) : Prop where
  done : (s.chan p).done = true
  bound : (s.chan p).bound = true
  dirn : (s.chan p).dirn = .tx
  partly : ¬ ((s.chan p).crb = 0 ∧ (s.chan p).lastLen = (s.chan p).blockSize)

theorem dmaIrq_fault {p : DPort} (hd : (s.chan p).done = true) (h : dmaIrq p s = .fault f) :
    f = .dmaIncompleteWrite p ∧ s.IncompleteWrite p := by
  by_cases hlive : s.dmaLive p
  · by_cases hw : (s.chan p).dirn = .tx ∧ (s.chan p).full = false
    · obtain ⟨hdir, hfull⟩ := hw
      rw [dmaIrq_incomplete hlive hdir hfull] at h
      obtain ⟨hbound, -, -⟩ := hlive
      exact ⟨(Host.Outcome.fault.inj h).symm, hd, hbound, hdir, by simp [← Chan.full_iff, hfull]⟩
    · rw [dmaIrq_live hlive hw] at h
      cases h
  · rw [dmaIrq_stale hlive] at h
    cases h

theorem exec_fault (h : exec i s = .fault f) :
    ∃ p : DPort, i = .dmaIrq p.fport ∧ f = .dmaIncompleteWrite p ∧ s.IncompleteWrite p := by
  by_cases hi : ∀ p, i ≠ .dmaIrq p
  · exact absurd h (exec_noFault hi f)
  · obtain ⟨q, rfl⟩ : ∃ q, i = .dmaIrq q := by simpa using hi
    simp only [exec, execDmaIrq] at h
    split at h
    · cases h
    · next p hp =>
      split at h <;> [cases h; split at h <;> [cases h; skip]]
      next hd => exact ⟨p, by rw [dma?_eq_some hp], dmaIrq_fault (by simpa using hd) h⟩

/-- A write that is done has moved all its blocks, each whole (R34, R242). -/
theorem ChanInv.not_incompleteWrite (h : ChanInv s) (p : DPort) : ¬ s.IncompleteWrite p :=
  fun hw => hw.partly ⟨h.ended p hw.bound hw.dirn hw.done, h.whole p hw.bound hw.dirn⟩

theorem ChanInv.exec_noFault (h : ChanInv s) (i : Instr) : NoFault (exec i s) := by
  intro f hf
  obtain ⟨p, -, -, hw⟩ := exec_fault hf
  exact h.not_incompleteWrite p hw

theorem ChanInv.runInput_noFault (h : ChanInv s) (x : Input) : NoFault (runInput x s) := by
  unfold runInput
  split
  · exact h.exec_noFault _
  · simp
  · simp
  · simp

/-- Settles O24: only `DMA_IRQ` can fault, and only in a state the channel invariant excludes. -/
theorem onlyIncompleteWriteFaults : Obligations.OnlyIncompleteWriteFaults := by
  constructor
  · intro i s f h
    obtain ⟨p, hi, hf, hw⟩ := exec_fault h
    exact ⟨p, hi, hf, hw.done, hw.bound, hw.dirn, hw.partly⟩
  · intro s h
    change NoFault (step s)
    cases hin : s.inbox with
    | nil => rw [step_of_inbox_nil hin]; simp
    | cons x rest =>
      rw [step_of_inbox_cons hin]
      exact ChanInv.runInput_noFault (s := s.setInbox rest) ⟨h.unbound, h.whole, h.ended⟩ x

end Sys2Proof.Machine
end

section
/-! SUPPORT. The reset state (R280) read field by field, and that it meets every invariant and is quiescent (R281,
R294). -/

namespace Sys2Proof.Machine

variable {c : Cfg}

/-! ### The reset state, field by field -/

@[simp] theorem resetFor_cfg (c : Cfg) : (State.resetFor c).cfg = c := rfl

theorem resetFor_pipe (c : Cfg) (j : PipeId) :
    (State.resetFor c).pipe j = if j = 0 then Pipe.resetZero c else Pipe.reset := by
  by_cases hj : j = 0
  · subst hj; rfl
  · have hne : 0 ≠ j.val := fun h => hj (Fin.ext h.symm)
    simp [State.pipe, State.resetFor, hj, hne]

@[simp] theorem resetFor_port (c : Cfg) (p : FPort) : (State.resetFor c).port p = Port.reset := by
  cases p <;> rfl

@[simp] theorem resetFor_chan (c : Cfg) (p : DPort) : (State.resetFor c).chan p = Chan.reset := by
  cases p <;> rfl

@[simp] theorem resetFor_link (c : Cfg) (k : PortId) : (State.resetFor c).link k = Link.reset := by
  simp [State.link, State.resetFor]

@[simp] theorem resetFor_sts (c : Cfg) (x : Source) : (State.resetFor c).sts x = false := by
  cases x <;> simp [State.sts, State.resetFor, Source.reg]

theorem resetFor_enb_pipe (c : Cfg) {x : Source} (hx : x.pipe? ≠ none) : (State.resetFor c).enb x = false := by
  cases x <;> simp_all [State.enb, State.resetFor, Source.reg, Source.pipe?]

/-- Of the link sources only the attach sources of existing ports are enabled, and only in host mode (R41, R280). -/
theorem resetFor_enb_link (c : Cfg) {x : Source} {k : PortId} (hx : x.port? = some k) :
    (State.resetFor c).enb x = decide (c.mode = .host ∧ (k.val = 0 ∨ 1 < c.numPhysPorts) ∧ x = .attach k) := by
  have hbit : (State.resetFor c).enb x = (linkenbReset c).getLsbD x.bit := by
    cases x with
    | attach | detach | linechg => rfl
    | _ => cases hx
  have hsource : x = .attach k ∨ x = .detach k ∨ x = .linechg k := by cases x <;> simp_all [Source.port?]
  rw [hbit, linkenbReset]
  clear hx hbit
  cases hm : c.mode with
  | peripheral => simp
  | host =>
    by_cases hn : c.numPhysPorts ≤ 1
    · have hlt : ¬ 1 < c.numPhysPorts := by omega
      simp only [if_pos hn, hlt, or_false, true_and]
      obtain rfl | rfl | rfl := hsource <;> revert k <;> decide
    · have hlt : 1 < c.numPhysPorts := by omega
      simp only [if_neg hn, hlt, or_true, true_and]
      obtain rfl | rfl | rfl := hsource <;> revert k <;> decide

theorem resetFor_enb_ctrl (c : Cfg) {x : Source} (hx : x.reg = .ctrl) :
    (State.resetFor c).enb x = decide (c.mode = .peripheral) := by
  cases x with
  | setup | stsdone | seqerr => cases hm : c.mode <;> simp [State.enb, State.resetFor, Source.reg, Source.bit, hm]
  | _ => cases hx

/-- An existing port's attach source is enabled in host mode (R41). -/
theorem resetFor_enb_attach {k : PortId} (hk : k.val < c.numPhysPorts) :
    (State.resetFor c).enb (.attach k) = decide (c.mode = .host) := by
  have hport : k.val = 0 ∨ 1 < c.numPhysPorts := by omega
  rw [resetFor_enb_link c (k := k) rfl]
  exact decide_eq_decide.2 ⟨And.left, fun hm => ⟨hm, hport, rfl⟩⟩

/-- Settles O16: the reset state read field by field. -/
theorem resetState : Obligations.ResetState := by
  refine ⟨fun c => ⟨rfl, ?_, fun j hj => ?_, resetFor_port c, resetFor_chan c, resetFor_link c, rfl, resetFor_sts c,
    fun j => ⟨?_, ?_, ?_⟩, fun k hk => ⟨resetFor_enb_attach hk, ?_, ?_⟩, fun x hx => resetFor_enb_ctrl c hx,
    rfl, rfl, rfl, rfl, rfl, rfl⟩, rfl⟩
  · rw [resetFor_pipe, if_pos rfl]
    cases hm : c.mode <;> simp [Pipe.resetZero, Pipe.reset, Slot.empty, hm]
  · rw [resetFor_pipe, if_neg hj]
    rfl
  · exact resetFor_enb_pipe c nofun
  · exact resetFor_enb_pipe c nofun
  · exact resetFor_enb_pipe c nofun
  · simp [resetFor_enb_link c (x := .detach k) rfl]
  · simp [resetFor_enb_link c (x := .linechg k) rfl]

/-! ### The invariants at reset -/

theorem resetFor_configured (c : Cfg) (j : PipeId) : ((State.resetFor c).pipe j).configured = decide (j = 0) := by
  rw [resetFor_pipe]
  split <;> simp [Pipe.resetZero, Pipe.reset, *]

theorem resetFor_busy (c : Cfg) (j : PipeId) : (State.resetFor c).busy j = false := by
  simp only [State.busy, resetFor_pipe]
  split <;> rfl

theorem resetFor_pipeOk (hn : 2 ≤ c.numPipes) (j : PipeId) : PipeOk (State.resetFor c) j where
  zero h := by simp [resetFor_configured, h]
  exist h := by
    obtain rfl : j = 0 := by simpa [resetFor_configured] using h
    exact Nat.lt_of_lt_of_le Nat.zero_lt_two hn
  free h := by
    have hj : j ≠ 0 := by simpa [resetFor_configured] using h
    refine ⟨resetFor_busy c j, fun x hx => resetFor_enb_pipe c (by simp [hx]), ?_, ?_⟩ <;>
      rw [resetFor_pipe, if_neg hj] <;> rfl
  mps := by
    rw [resetFor_pipe]
    split <;> simp [Pipe.resetZero, Pipe.reset]
  bemp := resetFor_enb_pipe c nofun

theorem resetFor_portInv (c : Cfg) : PortInv (State.resetFor c) := by
  constructor <;> simp [Port.reset]

theorem resetFor_chanInv (c : Cfg) : ChanInv (State.resetFor c) := by
  constructor <;> simp [Chan.reset]

theorem Link.good_reset : Link.reset.Good := by
  constructor <;> decide

theorem resetFor_linkInv (hn : 1 ≤ c.numPhysPorts) : LinkInv (State.resetFor c) where
  good k := by rw [resetFor_link]; exact Link.good_reset
  gated hm k hk := by
    have hhost : c.mode = .host := hm
    have hattach : (State.resetFor c).enb (.attach k) = true := by rw [resetFor_enb_attach (c := c) hk, hhost]; rfl
    simp [State.Gated, hattach, resetFor_enb_link c (x := .detach k) rfl,
      resetFor_enb_link c (x := .linechg k) rfl, Link.reset, gateBits]
  absent x k hx habs := by
    rw [resetFor_enb_link c hx, decide_eq_false_iff_not]
    rintro ⟨hm, hk, -⟩
    have hexist : k.val < c.numPhysPorts := by omega
    exact habs ⟨hm, hexist⟩

theorem resetFor_ctrlInv (c : Cfg) : CtrlInv (State.resetFor c) where
  statusEn := by simp [State.resetFor, Ctrl.reset]
  enabled x hx := resetFor_enb_ctrl c hx

theorem resetFor_inv (h : c.wf = true) : Inv (State.resetFor c) := by
  simp only [Cfg.wf, Bool.and_eq_true, decide_eq_true_eq] at h
  have hpipes : 2 ≤ c.numPipes := by omega
  have hports : 1 ≤ c.numPhysPorts := by omega
  exact ⟨pipeInv_iff.2 (resetFor_pipeOk hpipes), resetFor_portInv c, resetFor_chanInv c, resetFor_linkInv hports,
    resetFor_ctrlInv c, rfl⟩

theorem resetFor_quiescent (c : Cfg) : Quiescent (State.resetFor c) := by
  refine ⟨resetFor_busy c, by simp [Chan.reset], ?_, by simp [Chan.reset]⟩
  rw [Bool.eq_false_iff, ne_eq, irqAsserted_iff]
  simp

/-- Settles O17: each invariant holds of the reset values; the pipe and link invariants need the ranges of R9. -/
theorem resetMeetsInvariants : Obligations.ResetMeetsInvariants :=
  ⟨fun c h => ⟨resetFor_inv h, resetFor_quiescent c⟩, resetFor_inv (by decide)⟩

end Sys2Proof.Machine
end
